-- ==== Sys2Proof/Word.lean ====
section
/-! DEFINITION. Word.lean: the two word widths and the W-bit word. -/

namespace Sys2Proof

/-- The two variants of the core (00_scope R2): word width 32 and word width 64. -/
inductive Width where
  | w32
  | w64
  deriving DecidableEq, Repr

/-- `W`, the word width in bits (00_scope R5). -/
abbrev Width.bits : Width → Nat
  | .w32 => 32
  | .w64 => 64

/-- A word: an unsigned value of `W` bits, bit 0 the least significant (00_scope R8, R9). -/
abbrev Word (W : Nat) := BitVec W

end Sys2Proof
end

