-- ==== Sys2Proof/Config.lean ====
section
/-! DEFINITION. Config.lean: the build-time parameters of each variant (00_scope R5) and the open latencies (R165). -/

namespace Sys2Proof

/-- The build-time parameters of one core of word width `W` (00_scope R5); decision D3 asks for them as a record.
`n` words in the state array, `m` the offset of the third twist operand (C6), `r` the bits of the lower part of the
twist's split, `a` the twist coefficient, `u d s b t c l` the temper shifts and masks, `f` the seeding multiplier,
`idxBits` the width of the index register, `defaultSeed` the seed of the default command. -/
structure Params (W : Nat) where
  n : Nat
  m : Nat
  r : Nat
  a : Word W
  u : Nat
  d : Word W
  s : Nat
  b : Word W
  t : Nat
  c : Word W
  l : Nat
  f : Word W
  idxBits : Nat
  defaultSeed : Word W
  deriving DecidableEq, Repr

/-- `LOWER_MASK` = 2^R - 1 (00_scope R5). -/
def Params.lowerMask {W : Nat} (p : Params W) : Word W := BitVec.ofNat W (2 ^ p.r - 1)

/-- `UPPER_MASK` = WORD_MASK & ~LOWER_MASK (00_scope R5); WORD_MASK is all ones. -/
def Params.upperMask {W : Nat} (p : Params W) : Word W := BitVec.allOnes W &&& ~~~p.lowerMask

namespace Config

/-- The W = 32 column of 00_scope R5 (the MT19937 set, decisions D3, D4, D5, D17). -/
def mt32 : Params 32 where
  n := 624
  m := 397
  r := 31
  a := 0x9908B0DF
  u := 11
  d := 0xFFFFFFFF
  s := 7
  b := 0x9D2C5680
  t := 15
  c := 0xEFC60000
  l := 18
  f := 1812433253
  idxBits := 10
  defaultSeed := 5489

/-- The W = 64 column of 00_scope R5 (the MT19937-64 set, decisions D3, D4, D5, D17). -/
def mt64 : Params 64 where
  n := 312
  m := 156
  r := 31
  a := 0xB5026F5AA96619E9
  u := 29
  d := 0x5555555555555555
  s := 17
  b := 0x71D67FFFEDA60000
  t := 37
  c := 0xFFF7EEE000000000
  l := 43
  f := 6364136223846793005
  idxBits := 9
  defaultSeed := 5489

/-- Cycles of a seeding command less one, for each variant: OPEN in both columns of 00_scope R5
(70_reset_and_hazards R165, D16). No definition reads it. -/
opaque seedLatencyLessOne (w : Width) : Nat

/-- Extra cycles of a generate that twists, less one, for each variant: OPEN (R5, R165, D16). No definition reads it. -/
opaque twistLatencyLessOne (w : Width) : Nat

/-- Cycles of every other command, less one, for each variant: OPEN (R5, R165, D16). No definition reads it. -/
opaque extractLatencyLessOne (w : Width) : Nat

/-- `SEED_LATENCY` of the variant of width `w`: at least one cycle and finite (R165). Each variant has its own (R5). The
model has no time (log entry 8). -/
def seedLatency (w : Width) : Nat := seedLatencyLessOne w + 1

/-- `TWIST_LATENCY` of the variant of width `w`: at least one cycle and finite (R165). -/
def twistLatency (w : Width) : Nat := twistLatencyLessOne w + 1

/-- `EXTRACT_LATENCY` of the variant of width `w`: at least one cycle and finite (R165). -/
def extractLatency (w : Width) : Nat := extractLatencyLessOne w + 1

end Config

/-- The parameters of the variant of width `w`. -/
abbrev params : (w : Width) → Params w.bits
  | .w32 => Config.mt32
  | .w64 => Config.mt64

end Sys2Proof
end

