-- ==== Sys2Proof/Syntax.lean ====
section
/-! DEFINITION. Syntax.lean: the eight commands, the command format CMD, and assembler lines. -/

namespace Sys2Proof

/-- The commands of spec/opcode_table.json, one constructor for each row (30_encoding R62). `create` carries its seed,
the whole of `cmd_seed` (R63); no other command has an operand. -/
inductive Instr where
  | default32
  | create32 (seed : BitVec 32)
  | generate32
  | release32
  | default64
  | create64 (seed : BitVec 64)
  | generate64
  | release64
  deriving DecidableEq, Repr

namespace Instr

/-- The width of the core the command belongs to: the suffix of its mnemonic (30_encoding R62). -/
def width : Instr → Width
  | default32 => .w32
  | create32 _ => .w32
  | generate32 => .w32
  | release32 => .w32
  | default64 => .w64
  | create64 _ => .w64
  | generate64 => .w64
  | release64 => .w64

/-- `default_W`. -/
abbrev defaultOf : Width → Instr
  | .w32 => default32
  | .w64 => default64

/-- `create_W seed`. -/
abbrev createOf : (w : Width) → Word w.bits → Instr
  | .w32, seed => create32 seed
  | .w64, seed => create64 seed

/-- `generate_W`. -/
abbrev generateOf : Width → Instr
  | .w32 => generate32
  | .w64 => generate64

/-- `release_W`. -/
abbrev releaseOf : Width → Instr
  | .w32 => release32
  | .w64 => release64

end Instr

/-- Format CMD: the pair (cmd_op, cmd_seed) sampled at acceptance (30_encoding R60). -/
structure Cmd (W : Nat) where
  op : BitVec 2
  seed : Word W
  deriving DecidableEq, Repr

/-- A command presented on the command port of the core of that width. W is not in the command itself; the port
decides it (30_encoding R62). -/
inductive Presented where
  | on32 (cmd : Cmd 32)
  | on64 (cmd : Cmd 64)
  deriving DecidableEq, Repr

/-- One line of an assembler listing after its text has been read (30_encoding R67, R68): blank, or a command with the
width its suffix names. `create` has an optional seed, a literal not yet checked against 2^W; `generate` a number of
copies (1 for the plain command). -/
inductive Line where
  | blank
  | defaultW (w : Width)
  | createW (w : Width) (seed : Option Nat)
  | generateW (w : Width) (copies : Nat)
  | releaseW (w : Width)
  deriving DecidableEq, Repr

end Sys2Proof
end

