-- ==== Sys2Proof/WellFormed.lean ====
section
/-! DEFINITION. WellFormed.lean: which commands a core has, and which assembler lines an assembler accepts. -/

namespace Sys2Proof

/-- A command is one of the core of width `w`: "The same cmd_op value means the `_32` command on a 32-bit core and the
`_64` command on a 64-bit core" (30_encoding R62). The seed needs no check: every W-bit word is a seed (R63). -/
def Instr.wellFormed (w : Width) (i : Instr) : Bool := i.width == w

/-- Check 1 of a line: its suffix is the width of the core the program is for (30_encoding R67). -/
def Line.suffixOk (w : Width) : Line → Bool
  | .blank => true
  | .defaultW v => v == w
  | .createW v _ => v == w
  | .generateW v _ => v == w
  | .releaseW v => v == w

/-- Check 2 of a line: the value of a seed literal is below 2^W (30_encoding R67). -/
def Line.seedOk (w : Width) : Line → Bool
  | .createW _ (some v) => decide (v < 2 ^ w.bits)
  | .blank => true
  | .defaultW _ => true
  | .createW _ none => true
  | .generateW _ _ => true
  | .releaseW _ => true

/-- Check 3 of a line: the number of copies of `generate_W * n` is at least 1 (30_encoding R68). -/
def Line.copiesOk : Line → Bool
  | .generateW _ n => decide (1 ≤ n)
  | .blank => true
  | .defaultW _ => true
  | .createW _ _ => true
  | .releaseW _ => true

/-- A line that an assembler for the core of width `w` accepts (30_encoding R67, R68). -/
def Line.wellFormed (w : Width) (ln : Line) : Bool := ln.suffixOk w && ln.seedOk w && ln.copiesOk

end Sys2Proof
end

