-- ==== Sys2Proof/Decode.lean ====
section
/-! DEFINITION. Decode.lean: from a presented command, or a packed command word, to the command, and back
(30_encoding R60 to R66). -/

namespace Sys2Proof

/-- Decoding on the port of the core of width `w` (30_encoding R62). All four values of `cmd_op` are defined (R65), and
only `create` uses `cmd_seed` (R63, R66). -/
def decodeCmd (w : Width) (cmd : Cmd w.bits) : Instr :=
  if cmd.op = 0b00#2 then Instr.defaultOf w
  else if cmd.op = 0b01#2 then Instr.createOf w cmd.seed
  else if cmd.op = 0b10#2 then Instr.generateOf w
  else Instr.releaseOf w

/-- Decoding of a presented command: total, nothing is refused (30_encoding R65). -/
def decode : Presented → Instr
  | .on32 cmd => decodeCmd .w32 cmd
  | .on64 cmd => decodeCmd .w64 cmd

/-- The packed command word of a listing: bits [1:0] are `cmd_op`, bits [W+1:2] are `cmd_seed` (30_encoding R60). -/
def Cmd.pack {W : Nat} (cmd : Cmd W) : BitVec (W + 2) := cmd.seed ++ cmd.op

/-- The fields of a packed command word (30_encoding R60). -/
def Cmd.unpack {W : Nat} (word : BitVec (W + 2)) : Cmd W where
  op := word.extractLsb' 0 2
  seed := word.extractLsb' 2 W

/-- Why a number is no packed command word. -/
inductive DecodeError where
  /-- The number has a bit above bit W+1; a packed command word has W+2 bits (30_encoding R60). -/
  | wordTooWide
  deriving DecidableEq, Repr

/-- Decoding of a packed command word given as a number, for the core of width `w`. -/
def decodePacked (w : Width) (word : Nat) : Except DecodeError Instr :=
  if word < 2 ^ (w.bits + 2) then .ok (decodeCmd w (Cmd.unpack (BitVec.ofNat (w.bits + 2) word)))
  else .error .wordTooWide

/-- The core a row of the opcode table belongs to, read from the number of bits the table gives it: 34 (in whole bytes
40) for W = 32 and 66 (72) for W = 64 (opcode_table.json, `word_bits`). A packed command word does not hold W (R62), so
a number of bits that fits both, 64 or fewer, is read as W = 32 (log entry 9). -/
def tableWidth (nbits : Nat) : Width := if nbits ≤ 64 then .w32 else .w64

/-- The command a row's bits stand for, or none where the bits are no packed command word. -/
def decodeTableWord (nbits w : Nat) : Option Instr :=
  match decodePacked (tableWidth nbits) w with
  | .ok i => some i
  | .error _ => none

/-- `cmd_op` of a command (30_encoding R62). -/
def Instr.opcode : Instr → BitVec 2
  | .default32 => 0b00#2
  | .create32 _ => 0b01#2
  | .generate32 => 0b10#2
  | .release32 => 0b11#2
  | .default64 => 0b00#2
  | .create64 _ => 0b01#2
  | .generate64 => 0b10#2
  | .release64 => 0b11#2

/-- Encoding: the opcode of R62 with the seed of `create`, and for the other commands the ignored field written as 0,
as listings write it (30_encoding R60). -/
def encode : Instr → Presented
  | .default32 => .on32 ⟨0b00#2, 0#32⟩
  | .create32 seed => .on32 ⟨0b01#2, seed⟩
  | .generate32 => .on32 ⟨0b10#2, 0#32⟩
  | .release32 => .on32 ⟨0b11#2, 0#32⟩
  | .default64 => .on64 ⟨0b00#2, 0#64⟩
  | .create64 seed => .on64 ⟨0b01#2, seed⟩
  | .generate64 => .on64 ⟨0b10#2, 0#64⟩
  | .release64 => .on64 ⟨0b11#2, 0#64⟩

/-- The packed word of a presented command, as a number. -/
def Presented.word : Presented → Nat
  | .on32 cmd => cmd.pack.toNat
  | .on64 cmd => cmd.pack.toNat

/-- The packed command word of a command, as listings print it (30_encoding R60). -/
def encodeWord (i : Instr) : Nat := (encode i).word

/-- The number of bits of a command's packed word: W + 2 (30_encoding R60). -/
def Instr.wordBits (i : Instr) : Nat := i.width.bits + 2

end Sys2Proof
end

