-- ==== Sys2Proof/Machine/State.lean ====
section
/-! DEFINITION. Machine/State.lean: the state of the machine as plain data, the state after reset, and the reasons a
step can stop. -/

namespace Sys2Proof.Machine

/-- The status codes of `rsp_status` (30_encoding R64). The core produces the first two only (R64, R143). -/
inductive Status where
  /-- 0b00: the command succeeded. -/
  | ok
  /-- 0b01: generate or release on a core that is not live (60_exceptions R141). -/
  | invalidHandle
  /-- 0b10: kept for the source's AllocationFailure, never produced (R143). -/
  | allocationFailure
  /-- 0b11: reserved, never produced (R64). -/
  | reserved
  deriving DecidableEq, Repr

/-- A response: `rsp_status` and `rsp_data` (30_encoding R61). -/
structure Response (W : Nat) where
  status : Status
  data : Word W
  deriving DecidableEq, Repr

/-- The state array: `n` words of `W` bits; `none` is a word that holds no value (10_state R21, R34). -/
abbrev Storage {W : Nat} (p : Params W) := Vector (Option (Word W)) p.n

/-- One core (10_state R20). -/
structure CoreState {W : Nat} (p : Params W) where
  /-- `state[0..N-1]` (R21); a word holds no value before the first seeding and after a release (R34, R130). -/
  words : Storage p
  /-- The index register (R22), with its whole width, so values above N can be written down (R25); no value as above. -/
  index : Option (BitVec p.idxBits)
  /-- The live bit (R23). -/
  live : Bool
  /-- The ghost twist counter (R30). -/
  twists : Nat
  /-- The response port (30_encoding R61): `some r` is rsp_valid = 1 with the status and data of `r`. `none` is
  rsp_valid = 0, and then cmd_ready = 1 (70_reset_and_hazards R163). -/
  rsp : Option (Response W)
  /-- The model's own, the host's side of R163: the command the host has presented and the core not accepted yet.
  It is the host's, not the core's, and outlives a reset (log entry 5). -/
  held : Option (Cmd W)
  /-- The model's own ghost: a command has met INVALID_HANDLE (93_implementation_defined U2, U3). Never cleared. -/
  misuse : Bool
  deriving DecidableEq, Repr

/-- The core's inputs at one moment (30_encoding R60, R61). -/
structure Pins (W : Nat) where
  /-- `rst`, active high (70_reset_and_hazards R160). -/
  rst : Bool
  /-- `cmd_valid`. -/
  cmdValid : Bool
  /-- `cmd_op` and `cmd_seed`, of no meaning while `cmd_valid` is 0. -/
  cmd : Cmd W
  /-- `rsp_ready`. -/
  rspReady : Bool
  /-- A second host drives the same port at this moment (20_memory R49, U4). -/
  secondHost : Bool
  deriving DecidableEq, Repr

/-- What the host drives at one moment, on the ports of one of the two cores. -/
inductive HostMove where
  | on32 (pins : Pins 32)
  | on64 (pins : Pins 64)
  deriving DecidableEq, Repr

/-- The machine: one core of each width side by side, which share nothing (60_exceptions R150), and the moves the host
has yet to make, the next one first (10_state R28, R153). -/
structure State where
  /-- mersenne_twister_32_core. -/
  core32 : CoreState Config.mt32
  /-- mersenne_twister_64_core. -/
  core64 : CoreState Config.mt64
  /-- The model's own: the host's moves to come. -/
  host : List HostMove
  deriving DecidableEq, Repr

/-- Why the machine stops with a fault. -/
inductive Fault where
  /-- Raised by a generate on a live core that reads a word holding no value (10_state R34, 20_memory R41, U6). Safe: no
  run from reset meets it. -/
  | unwrittenWord
  /-- Raised by a generate on a live core whose index holds no value (R34, U6). Safe: no run from reset meets it. -/
  | unwrittenIndex
  /-- Raised by a generate on a live core whose index is above N (R25, D17, U7). Safe: no run from reset meets it. -/
  | indexAboveN
  /-- Raised on delivery of a response with status 0b10 or 0b11 (30_encoding R65, U8). Safe: the core produces none. -/
  | foreignStatus
  deriving DecidableEq, Repr

/-- Why a run has no meaning. -/
inductive Refusal where
  /-- Raised by exec for a command that has no meaning yet. Safe: nothing can be proved of it. -/
  | notModelled (mnemonic : String)
  /-- Raised by a step when two hosts drive one port at once (20_memory R49, U4). Safe: the spec gives it no meaning. -/
  | sharedPort
  /-- Raised by a step when the host changes or withdraws a presented command before it is accepted
  (70_reset_and_hazards R163, U5). Safe: the spec gives it no meaning. -/
  | commandChanged
  deriving DecidableEq, Repr

/-- A state array no word of which holds a value (10_state R34). -/
def Storage.unwritten {W : Nat} (p : Params W) : Storage p := Vector.replicate p.n none

/-- A core after reset (10_state R32). -/
def CoreState.reset {W : Nat} (p : Params W) : CoreState p where
  words := Storage.unwritten p
  index := none
  live := false
  twists := 0
  rsp := none
  held := none
  misuse := false

/-- The machine after reset: both cores after reset (10_state R32), the host has nothing to do. -/
def State.reset : State where
  core32 := CoreState.reset Config.mt32
  core64 := CoreState.reset Config.mt64
  host := []

/-- The core of width `w`. -/
def State.core (s : State) : (w : Width) → CoreState (params w)
  | .w32 => s.core32
  | .w64 => s.core64

/-- The machine with another state of the core of width `w`. -/
def State.setCore (s : State) : (w : Width) → CoreState (params w) → State
  | .w32, c => { s with core32 := c }
  | .w64, c => { s with core64 := c }

end Sys2Proof.Machine
end

