-- ==== Sys2Proof/Machine/Ops.lean ====
section
/-! DEFINITION. Machine/Ops.lean: the named operations: the storage primitives of R41, responding, the one error a
command can raise, the handshake of R163, and where a command of one core acts on the machine. -/

namespace Sys2Proof.Machine

variable {W : Nat} {p : Params W}

/-- `state[i]` (00_scope R12, 20_memory R41): the word at position `i`; none where the position holds no value, or is
none of 0..N-1. -/
def readWord (ws : Storage p) (i : Nat) : Option (Word W) := ws.toList[i]?.join

/-- `state[i] <- v` (00_scope R12, 20_memory R41), one whole word (R44). -/
def writeWord (ws : Storage p) (i : Nat) (v : Word W) : Storage p :=
  ⟨⟨ws.toList.set i (some v)⟩, by simp⟩

/-- `for i in [0, N): state[i] <- a[i]` (40_seeding R81). -/
def writeAll (a : Vector (Word W) p.n) : Storage p := ⟨⟨a.toList.map some⟩, by simp⟩

/-- `respond(status, data)`: the response is present from now until it is delivered (00_scope R12, 30_encoding R61). -/
def respond (status : Status) (data : Word W) (c : CoreState p) : CoreState p :=
  { c with rsp := some ⟨status, data⟩ }

/-- `raise InvalidHandle()`: `respond(INVALID_HANDLE, 0)` with no write to any state of the core (00_scope R12,
60_exceptions R141). The model's ghost records it (U2, U3), at the acceptance of the command: DESIGN CHOICE, log entry 6. This is the one exception of the machine; the response is
its whole entry (R144), and there is no return from it but the next command (R145). -/
def raiseInvalidHandle (c : CoreState p) : CoreState p :=
  respond .invalidHandle 0 { c with misuse := true }

/-- The 2-bit code of a status (30_encoding R64). -/
def statusCode : Status → BitVec 2
  | .ok => 0b00#2
  | .invalidHandle => 0b01#2
  | .allocationFailure => 0b10#2
  | .reserved => 0b11#2

/-- A status that a core can produce (30_encoding R64, R65). -/
def statusProduced : Status → Bool
  | .ok => true
  | .invalidHandle => true
  | .allocationFailure => false
  | .reserved => false

/-- The packed response word of listings: bits [1:0] the status, bits [W+1:2] the data (30_encoding R61). -/
def packResponse (r : Response W) : BitVec (W + 2) := r.data ++ statusCode r.status

/-- `rsp_valid` (30_encoding R61). -/
def rspValid (c : CoreState p) : Bool := c.rsp.isSome

/-- `cmd_ready` while `rst` is 0: the core accepts a command exactly while no response waits (70_reset_and_hazards R163;
a command responds in the step that accepts it, R45). -/
def cmdReady (c : CoreState p) : Bool := !rspValid c

/-- The command the inputs present, if any (30_encoding R60). -/
def presented (pins : Pins W) : Option (Cmd W) := if pins.cmdValid then some pins.cmd else none

/-- The host breaks R163: it presented a command that is not accepted yet, and now presents another or none. -/
def handshakeBroken (c : CoreState p) (pins : Pins W) : Bool := c.held.isSome && c.held != presented pins

/-- What happens at one moment on one core's ports. -/
inductive Reaction (W : Nat) where
  /-- Two hosts drive the port. -/
  | sharedPort
  /-- `rst` is 1. -/
  | reset
  /-- The host changed its command before acceptance. -/
  | commandChanged
  /-- The waiting response is delivered. -/
  | deliver
  /-- A response with a code the core never produces is delivered. -/
  | foreignStatus
  /-- The presented command is accepted. -/
  | accept (cmd : Cmd W)
  /-- Nothing is accepted and nothing delivered. -/
  | wait
  deriving DecidableEq, Repr

/-- What the inputs of this moment make the core do. Two hosts: refused whatever they drive (20_memory R49). Then the host's
steadiness, which binds until the acceptance and so through a reset too (70_reset_and_hazards R163), then reset (R160, it
overrides a command, R146), then delivery while a response waits (R61), and acceptance only while none waits (R163). -/
def react (c : CoreState p) (pins : Pins W) : Reaction W :=
  if pins.secondHost then .sharedPort
  else if handshakeBroken c pins then .commandChanged
  else if pins.rst then .reset
  else match c.rsp with
    | some r =>
      if pins.rspReady then (if statusProduced r.status then .deliver else .foreignStatus) else .wait
    | none => if pins.cmdValid then .accept pins.cmd else .wait

/-- The core after a moment with `rst` = 1: the reset state replaces every element (70_reset_and_hazards R160). The
model's ghost of U2 and U3 is never cleared, not even where the reset drops the response of the very command that was
recorded: DESIGN CHOICE, log entry 6. A command presented now is not accepted (R160), so the host must keep it (R163). -/
def resetCore (c : CoreState p) (pins : Pins W) : CoreState p :=
  { CoreState.reset p with misuse := c.misuse, held := presented pins }

/-- The core after a moment in which it neither delivers nor accepts: it holds all its state and its response
(60_exceptions R152, 30_encoding R61), and a command presented now must stay (R163). -/
def waitCore (c : CoreState p) (pins : Pins W) : CoreState p := { c with held := presented pins }

/-- The core after its response is delivered (30_encoding R61). -/
def deliverCore (c : CoreState p) (pins : Pins W) : CoreState p := { waitCore c pins with rsp := none }

/-- The core at the acceptance of the presented command: the host need hold it no longer (70_reset_and_hazards R163). -/
def acceptCore (c : CoreState p) : CoreState p := { c with held := none }

/-- A command of the core of width `w` acts on that core and on nothing else (60_exceptions R150). -/
def onCore (w : Width) (f : CoreState (params w) → Host.Outcome (CoreState (params w)) Fault Refusal) (s : State) :
    Host.Outcome State Fault Refusal :=
  match f (s.core w) with
  | .next c => .next (s.setCore w c)
  | .fault r => .fault r
  | .refused r => .refused r

/-- The inputs by which a host presents `cmd`, alone, without reset. -/
def presentPins (cmd : Cmd W) : Pins W := ⟨false, true, cmd, false, false⟩

/-- The inputs by which a host takes a response and presents nothing. -/
def takePins (W : Nat) : Pins W := ⟨false, false, ⟨0, 0⟩, true, false⟩

/-- A move on the ports of the core of width `w`. -/
def moveOn : (w : Width) → Pins w.bits → HostMove
  | .w32, pins => .on32 pins
  | .w64, pins => .on64 pins

/-- The command presented on the port of the core of width `w`. -/
def presentedOn : (w : Width) → Cmd w.bits → Presented
  | .w32, cmd => .on32 cmd
  | .w64, cmd => .on64 cmd

/-- The machine about to accept `cmd` on the port of width `w`: the host's next move presents it, and nothing stands in
the way of its acceptance (no response waits, no other command is held). -/
def placeCmd (w : Width) (cmd : Cmd w.bits) (s : State) : State :=
  { s.setCore w { s.core w with rsp := none, held := none } with host := moveOn w (presentPins cmd) :: s.host }

/-- `placeCmd` for the packed command word `word` of the core of width `w`; a number that is no packed command word
places nothing, as no decoder reads a command from it. -/
def placeWord (w : Width) (word : Nat) (s : State) : State :=
  if word < 2 ^ (w.bits + 2) then placeCmd w (Cmd.unpack (BitVec.ofNat (w.bits + 2) word)) s else s

end Sys2Proof.Machine
end

