-- ==== Sys2Proof/Machine/Flags.lean ====
section
/-! DEFINITION. Machine/Flags.lean: the logical states of 10_state R24, functions of live and index; the core has no
flag register. -/

namespace Sys2Proof.Machine

variable {W : Nat} {p : Params W}

/-- The logical states (10_state R24). -/
inductive Logical where
  | unseeded
  | exhausted
  | fresh
  deriving DecidableEq, Repr

/-- The index as a number; none where it holds no value (10_state R22, R34). -/
def indexValue (c : CoreState p) : Option Nat := c.index.map BitVec.toNat

/-- The logical state of a core (10_state R24). A live core whose index holds no value or lies above N, which no run
from reset reaches (R25), has none. -/
def logical (c : CoreState p) : Option Logical :=
  if c.live then
    match indexValue c with
    | none => none
    | some i => if i = p.n then some .exhausted else if i < p.n then some .fresh else none
  else some .unseeded

end Sys2Proof.Machine
end

