-- ==== Sys2Proof/Machine/Generate.lean ====
section
/-! DEFINITION. Machine/Generate.lean: the twist, the temper and the generate commands (41_generate R100 to R108). -/

namespace Sys2Proof.Machine

variable {W : Nat}

/-- `y` of one twist iteration: the upper part of `state[i]` with the lower part of `state[(i+1) mod N]` (R100). -/
def twistMix (p : Params W) (a b : Word W) : Word W := (a &&& p.upperMask) ||| (b &&& p.lowerMask)

/-- `tw(a, b, c)` (41_generate R101): the `next` of R100 from `state[i]`, `state[(i+1) mod N]`, `state[(i+M) mod N]`. -/
def twistWord (p : Params W) (a b c : Word W) : Word W :=
  let y := twistMix p a b
  c ^^^ (y >>> 1) ^^^ (if y.getLsbD 0 then p.a else 0)

/-- Iteration `i` of the twist (R100); none where a word it reads holds no value (20_memory R41). -/
def twistAt (p : Params W) (i : Nat) (ws : Storage p) : Option (Storage p) :=
  match readWord ws i, readWord ws ((i + 1) % p.n), readWord ws ((i + p.m) % p.n) with
  | some a, some b, some c => some (writeWord ws i (twistWord p a b c))
  | _, _, _ => none

/-- The first `k` iterations of the twist, in ascending order, each seeing the writes before it (R100, C2). -/
def twistPass (p : Params W) : (k : Nat) → Storage p → Option (Storage p)
  | 0, ws => some ws
  | k + 1, ws =>
    match twistPass p k ws with
    | some ws' => twistAt p k ws'
    | none => none

/-- The whole pass over the array, `for i in [0, N)` (R100). -/
def twist (p : Params W) (ws : Storage p) : Option (Storage p) := twistPass p p.n ws

/-- `if index == N then Twist()` (R106): the array is advanced, index <- 0, twists <- twists + 1 (R100). None where the
twist reads a word that holds no value. -/
def twistIfStale {p : Params W} (idx : BitVec p.idxBits) (c : CoreState p) : Option (CoreState p) :=
  if idx.toNat = p.n then
    match twist p c.words with
    | some ws => some { c with words := ws, index := some 0, twists := c.twists + 1 }
    | none => none
  else some c

/-- `Temper(y)` (41_generate R104). -/
def temper (p : Params W) (y : Word W) : Word W :=
  let y1 := y ^^^ ((y >>> p.u) &&& p.d)
  let y2 := y1 ^^^ ((y1 <<< p.s) &&& p.b)
  let y3 := y2 ^^^ ((y2 <<< p.t) &&& p.c)
  y3 ^^^ (y3 >>> p.l)

/-- The extract step of R106: y = state[index], index <- index + 1, respond (OK, Temper(y)). -/
def extract {p : Params W} (c : CoreState p) : Host.Outcome (CoreState p) Fault Refusal :=
  match c.index with
  | none => .fault .unwrittenIndex
  | some idx =>
    match readWord c.words idx.toNat with
    | none => .fault .unwrittenWord
    | some y => .next (respond .ok (temper p y) { c with index := some (idx + 1) })

/-- `Generate()` (41_generate R106). The live test comes first (R146). An index above N is a fault, not a twist (10_state
R25). -/
def generate {p : Params W} (c : CoreState p) : Host.Outcome (CoreState p) Fault Refusal :=
  if c.live then
    match c.index with
    | none => .fault .unwrittenIndex
    | some idx =>
      if p.n < idx.toNat then .fault .indexAboveN
      else match twistIfStale idx c with
        | none => .fault .unwrittenWord
        | some c' => extract c'
  else .next (raiseInvalidHandle c)

/-- `generate_32` (41_generate R107). -/
def execGenerate32 (s : State) : Host.Outcome State Fault Refusal := onCore .w32 generate s

/-- `generate_64` (41_generate R108). -/
def execGenerate64 (s : State) : Host.Outcome State Fault Refusal := onCore .w64 generate s

end Sys2Proof.Machine
end

