-- ==== Sys2Proof/Machine/Release.lean ====
section
/-! DEFINITION. Machine/Release.lean: the release commands (42_release R130 to R132). -/

namespace Sys2Proof.Machine

variable {W : Nat}

/-- `Release()` (42_release R130): live <- 0, the words and the index hold no value from now on (10_state R34), the
ghost twist counter is left as it is. -/
def release {p : Params W} (c : CoreState p) : CoreState p :=
  if c.live then respond .ok 0 { c with live := false, words := Storage.unwritten p, index := none }
  else raiseInvalidHandle c

/-- `release_32` (42_release R131). -/
def execRelease32 (s : State) : Host.Outcome State Fault Refusal := onCore .w32 (fun c => .next (release c)) s

/-- `release_64` (42_release R132). -/
def execRelease64 (s : State) : Host.Outcome State Fault Refusal := onCore .w64 (fun c => .next (release c)) s

end Sys2Proof.Machine
end

