-- ==== Sys2Proof/Machine/Operands.lean ====
section
/-! DEFINITION. Machine/Operands.lean: the two seeds a seeding command can have (30_encoding R63, 00_scope R5). -/

namespace Sys2Proof.Machine

variable {W : Nat}

/-- Where a seeding command takes its seed from. No command has another operand (30_encoding R63). -/
inductive SeedOperand (W : Nat) where
  /-- `cmd_seed`, taken whole (R63). -/
  | explicit (seed : Word W)
  /-- `DEFAULT_SEED` (00_scope R5). -/
  | fromDefault
  deriving DecidableEq, Repr

/-- The seed itself: an explicit one unchanged, neither extended, shifted nor scaled (30_encoding R63). -/
def seedValue (p : Params W) : SeedOperand W → Word W
  | .explicit seed => seed
  | .fromDefault => p.defaultSeed

end Sys2Proof.Machine
end

