-- ==== Sys2Proof/Machine/Seeding.lean ====
section
/-! DEFINITION. Machine/Seeding.lean: SeedExpand, Seed and the four seeding commands (40_seeding R80 to R87). -/

namespace Sys2Proof.Machine

variable {W : Nat}

/-- `a[i]` from `x = a[i-1]`: F * (x ^ (x >> (W-2))) + i modulo 2^W (40_seeding R80). -/
def seedNext (p : Params W) (x : Word W) (i : Nat) : Word W :=
  p.f * (x ^^^ (x >>> (W - 2))) + BitVec.ofNat W i

/-- The next `count` words of the seeding recurrence from the word `x` at position `i - 1` on. -/
def seedList (p : Params W) : (count : Nat) → (i : Nat) → Word W → List (Word W)
  | 0, _, _ => []
  | count + 1, i, x => x :: seedList p count (i + 1) (seedNext p x i)

theorem seedList_length (p : Params W) (count i : Nat) (x : Word W) : (seedList p count i x).length = count := by
  induction count generalizing i x with
  | zero => rfl
  | succ k ih => simp [seedList, ih]

/-- `SeedExpand(s)` (40_seeding R80): positions 0 to N-1 (C1). -/
def seedExpand (p : Params W) (s : Word W) : Vector (Word W) p.n :=
  ⟨⟨seedList p p.n 1 s⟩, by simp [seedList_length]⟩

/-- `Seed(s)` (40_seeding R81): it cannot fail (60_exceptions R142) and reseeds a live core (R86). -/
def seed {p : Params W} (s : Word W) (c : CoreState p) : CoreState p :=
  respond .ok 0
    { c with words := writeAll (seedExpand p s), index := some (BitVec.ofNat p.idxBits p.n), live := true, twists := 0 }

/-- A seeding command on the core of width `w`. -/
def seedFrom (w : Width) (operand : SeedOperand w.bits) (s : State) : Host.Outcome State Fault Refusal :=
  onCore w (fun c => .next (seed (seedValue (params w) operand) c)) s

/-- `default_32` (40_seeding R83). -/
def execDefault32 (s : State) : Host.Outcome State Fault Refusal := seedFrom .w32 .fromDefault s

/-- `create_32` (40_seeding R82). -/
def execCreate32 (seed : BitVec 32) (s : State) : Host.Outcome State Fault Refusal := seedFrom .w32 (.explicit seed) s

/-- `default_64` (40_seeding R85). -/
def execDefault64 (s : State) : Host.Outcome State Fault Refusal := seedFrom .w64 .fromDefault s

/-- `create_64` (40_seeding R84). -/
def execCreate64 (seed : BitVec 64) (s : State) : Host.Outcome State Fault Refusal := seedFrom .w64 (.explicit seed) s

end Sys2Proof.Machine
end

