-- ==== Sys2Proof/Machine/Dispatch.lean ====
section
/-! DEFINITION. Machine/Dispatch.lean: the meaning of every command (30_encoding R62). -/

namespace Sys2Proof.Machine

def exec (i : Instr) (s : State) : Host.Outcome State Fault Refusal :=
  match i with
  | .default32 => Sys2Proof.Machine.execDefault32 s
  | .create32 seed => Sys2Proof.Machine.execCreate32 seed s
  | .generate32 => Sys2Proof.Machine.execGenerate32 s
  | .release32 => Sys2Proof.Machine.execRelease32 s
  | .default64 => Sys2Proof.Machine.execDefault64 s
  | .create64 seed => Sys2Proof.Machine.execCreate64 seed s
  | .generate64 => Sys2Proof.Machine.execGenerate64 s
  | .release64 => Sys2Proof.Machine.execRelease64 s

end Sys2Proof.Machine
end

