-- ==== Sys2Proof/Machine/Step.lean ====
section
/-! DEFINITION. Machine/Step.lean: one step of the machine: the host's next move on one core's ports. -/

namespace Sys2Proof.Machine

/-- One moment on the ports of the core of width `w`: what `react` says, with an accepted command executed as one
indivisible step (20_memory R45). -/
def moment (w : Width) (pins : Pins w.bits) (s : State) : Host.Outcome State Fault Refusal :=
  match react (s.core w) pins with
  | .sharedPort => .refused .sharedPort
  | .reset => .next (s.setCore w (resetCore (s.core w) pins))
  | .commandChanged => .refused .commandChanged
  | .deliver => .next (s.setCore w (deliverCore (s.core w) pins))
  | .foreignStatus => .fault .foreignStatus
  | .accept cmd => exec (decode (presentedOn w cmd)) (s.setCore w (acceptCore (s.core w)))
  | .wait => .next (s.setCore w (waitCore (s.core w) pins))

/-- One step: the host's next move. Where the host drives nothing, an idle core waits and holds all its state
(60_exceptions R152). -/
def step (s : State) : Host.Outcome State Fault Refusal :=
  match s.host with
  | [] => .next s
  | .on32 pins :: rest => moment .w32 pins { s with host := rest }
  | .on64 pins :: rest => moment .w64 pins { s with host := rest }

/-- `s` with the command of packed word `w` presented by the host's next move (log entry 9): the core fetches nothing
(10_state R28), so a program comes to it as the host's commands. -/
def State.withFetchWord (s : State) (nbits w : Nat) : State := placeWord (tableWidth nbits) w s

end Sys2Proof.Machine
end

