-- ==== Sys2Proof/Machine/Assembler.lean ====
section
/-! DEFINITION. Machine/Assembler.lean: the assembler syntax and the pseudo-instructions (30_encoding R67, R68): from the
characters of a listing to commands. Host-side notation: no step of the machine reads it. -/

namespace Sys2Proof.Machine

/-- Why an assembler refuses a line (30_encoding R67, R68). -/
inductive AsmError where
  /-- The first word is no command. -/
  | unknownCommand
  /-- The words after the command are not operands it has. -/
  | badOperands
  /-- The suffix is not the width of the core the program is for. -/
  | wrongWidth
  /-- The seed is 2^W or more: refused rather than truncated. -/
  | seedTooLarge
  /-- `generate_W * 0`: n is at least 1. -/
  | noCopies
  deriving DecidableEq, Repr

/-- The line without its comment: `;` starts a comment that runs to the end of the line (R67). -/
def stripComment : List Char → List Char
  | [] => []
  | ch :: rest => if ch = ';' then [] else ch :: stripComment rest

/-- A character that separates words of a line. -/
def isBlank (ch : Char) : Bool := ch == ' ' || ch == '\t' || ch == '\r'

/-- The words of a line: the first component is the word the line begins with, which may be empty. -/
def splitWords : List Char → List Char × List (List Char)
  | [] => ([], [])
  | ch :: rest =>
    match splitWords rest with
    | (word, more) => if isBlank ch then ([], if word.isEmpty then more else word :: more) else (ch :: word, more)

/-- The words of a line, none of them empty. -/
def lineWords (line : List Char) : List (List Char) :=
  match splitWords line with
  | (word, more) => if word.isEmpty then more else word :: more

/-- The value of a decimal digit. -/
def decDigit (ch : Char) : Option Nat :=
  if 48 ≤ ch.toNat ∧ ch.toNat ≤ 57 then some (ch.toNat - 48) else none

/-- The value of a hexadecimal digit, of either case. -/
def hexDigit (ch : Char) : Option Nat :=
  if 48 ≤ ch.toNat ∧ ch.toNat ≤ 57 then some (ch.toNat - 48)
  else if 65 ≤ ch.toNat ∧ ch.toNat ≤ 70 then some (ch.toNat - 55)
  else if 97 ≤ ch.toNat ∧ ch.toNat ≤ 102 then some (ch.toNat - 87)
  else none

/-- The value of digits in a base, most significant first, after the value `acc`. -/
def digitsValue (base : Nat) (digit : Char → Option Nat) : Nat → List Char → Option Nat
  | acc, [] => some acc
  | acc, ch :: rest =>
    match digit ch with
    | some v => digitsValue base digit (acc * base + v) rest
    | none => none

/-- A literal: decimal, or hexadecimal after `0x` (R67). -/
def literal : List Char → Option Nat
  | [] => none
  | '0' :: 'x' :: [] => none
  | '0' :: 'x' :: ch :: rest => digitsValue 16 hexDigit 0 (ch :: rest)
  | ch :: rest => digitsValue 10 decDigit 0 (ch :: rest)

/-- The command names without their suffix. -/
inductive Mnemonic where
  | default
  | create
  | generate
  | release
  deriving DecidableEq, Repr

/-- The width of a suffix, `32` or `64` (R67). -/
def suffixWidth (suffix : List Char) : Option Width :=
  if suffix = ['3', '2'] then some .w32 else if suffix = ['6', '4'] then some .w64 else none

/-- A word that names a command: the name, an underscore and the suffix (R67). -/
def mnemonicOf : List Char → Option (Mnemonic × Width)
  | 'd' :: 'e' :: 'f' :: 'a' :: 'u' :: 'l' :: 't' :: '_' :: suffix => (suffixWidth suffix).map (Mnemonic.default, ·)
  | 'c' :: 'r' :: 'e' :: 'a' :: 't' :: 'e' :: '_' :: suffix => (suffixWidth suffix).map (Mnemonic.create, ·)
  | 'g' :: 'e' :: 'n' :: 'e' :: 'r' :: 'a' :: 't' :: 'e' :: '_' :: suffix =>
    (suffixWidth suffix).map (Mnemonic.generate, ·)
  | 'r' :: 'e' :: 'l' :: 'e' :: 'a' :: 's' :: 'e' :: '_' :: suffix => (suffixWidth suffix).map (Mnemonic.release, ·)
  | _ => none

/-- A line from its command and the words after it (R67, R68). -/
def lineOf : Mnemonic → Width → List (List Char) → Option Line
  | .default, w, [] => some (.defaultW w)
  | .create, w, [] => some (.createW w none)
  | .create, w, [seed] => (literal seed).map fun v => .createW w (some v)
  | .generate, w, [] => some (.generateW w 1)
  | .generate, w, [['*'], copies] => (digitsValue 10 decDigit 0 copies).map fun n => .generateW w n
  | .release, w, [] => some (.releaseW w)
  | _, _, _ => none

/-- The text of one line, read (R67). The reading comes before the checks of `expandLine`, so a line whose operands cannot be
read is refused for them, whatever its suffix is: DESIGN CHOICE, log entry 10. -/
def parseLine (text : List Char) : Except AsmError Line :=
  match lineWords (stripComment text) with
  | [] => .ok .blank
  | word :: operands =>
    match mnemonicOf word with
    | none => .error .unknownCommand
    | some (m, w) =>
      match lineOf m w operands with
      | none => .error .badOperands
      | some ln => .ok ln

/-- The commands of a line for the core of width `w`: `create_W` with no operand is `default_W`, and `generate_W * n` is
n copies of `generate_W` (30_encoding R68). A line, once read, that is not well formed is refused (R67),
for its suffix first: DESIGN CHOICE, log entry 10. -/
def expandLine (w : Width) (ln : Line) : Except AsmError (List Instr) :=
  if ln.suffixOk w = false then .error .wrongWidth
  else if ln.seedOk w = false then .error .seedTooLarge
  else if ln.copiesOk = false then .error .noCopies
  else match ln with
    | .blank => .ok []
    | .defaultW _ => .ok [Instr.defaultOf w]
    | .createW _ none => .ok [Instr.defaultOf w]
    | .createW _ (some v) => .ok [Instr.createOf w (BitVec.ofNat w.bits v)]
    | .generateW _ n => .ok (List.replicate n (Instr.generateOf w))
    | .releaseW _ => .ok [Instr.releaseOf w]

/-- A command program, a list of lines, for the core of width `w` (30_encoding R67). A program with several bad lines is
refused for the first of them: DESIGN CHOICE, log entry 10. -/
def assemble (w : Width) : List (List Char) → Except AsmError (List Instr)
  | [] => .ok []
  | text :: rest =>
    match parseLine text with
    | .error e => .error e
    | .ok ln =>
      match expandLine w ln with
      | .error e => .error e
      | .ok is =>
        match assemble w rest with
        | .error e => .error e
        | .ok js => .ok (is ++ js)

end Sys2Proof.Machine
end

