-- ==== Sys2Proof/Machine/Session.lean ====
section
/-! DEFINITION. Machine/Session.lean: sequences of whole transactions, a command and the delivery of its response, the
level the spec is written at (92_eei_decisions D1, 20_memory R47), and cloning (10_state R33). -/

namespace Sys2Proof.Machine

/-- A delivered response, with the core it comes from. -/
inductive Reply where
  | of32 (r : Response 32)
  | of64 (r : Response 64)
  deriving DecidableEq, Repr

/-- A response of the core of width `w`. -/
def replyOf : (w : Width) → Response w.bits → Reply
  | .w32, r => .of32 r
  | .w64, r => .of64 r

/-- The core of width `w` after the host has taken its response. -/
def takeResponse (w : Width) (s : State) : State := s.setCore w { s.core w with rsp := none }

/-- One transaction: the command is executed and its one response delivered (30_encoding R61). None where the command
stops the machine. -/
def transact (i : Instr) (s : State) : Option (Reply × State) :=
  match exec i s with
  | .next t => (t.core i.width).rsp.map fun r => (replyOf i.width r, takeResponse i.width t)
  | .fault _ => none
  | .refused _ => none

/-- A sequence of commands, each one's response delivered before the next is accepted; the responses leave in the same
order, one for each command (20_memory R47). None where a command stops the machine. -/
def session : List Instr → State → Option (List Reply × State)
  | [], s => some ([], s)
  | i :: is, s =>
    match transact i s with
    | none => none
    | some (r, t) =>
      match session is t with
      | none => none
      | some (rs, u) => some (r :: rs, u)

/-- The core a reply comes from. -/
def Reply.width : Reply → Width
  | .of32 _ => .w32
  | .of64 _ => .w64

/-- The host's two moves of one transaction: it presents the command until it is accepted, and then takes the response
(20_memory R47, 70_reset_and_hazards R163). -/
def transactionMoves (i : Instr) : List HostMove :=
  match encode i with
  | .on32 cmd => [.on32 (presentPins cmd), .on32 (takePins 32)]
  | .on64 cmd => [.on64 (presentPins cmd), .on64 (takePins 64)]

/-- The host's moves for a sequence of commands, each response taken before the next command (10_state R28). -/
def programMoves : List Instr → List HostMove
  | [] => []
  | i :: is => transactionMoves i ++ programMoves is

/-- The response delivered at one moment on the ports of the core of width `w`, if one is (30_encoding R61). -/
def deliveredOn (w : Width) (pins : Pins w.bits) (s : State) : Option Reply :=
  match react (s.core w) pins with
  | .deliver => (s.core w).rsp.map (replyOf w)
  | .sharedPort => none
  | .reset => none
  | .commandChanged => none
  | .foreignStatus => none
  | .accept _ => none
  | .wait => none

/-- The response the next step delivers to the host, if it delivers one. -/
def delivered (s : State) : Option Reply :=
  match s.host with
  | [] => none
  | .on32 pins :: _ => deliveredOn .w32 pins s
  | .on64 pins :: _ => deliveredOn .w64 pins s

/-- `k` steps of the machine, with the responses they deliver, in order. None where a step stops. -/
def run : (k : Nat) → State → Option (List Reply × State)
  | 0, s => some ([], s)
  | k + 1, s =>
    match step s with
    | .fault _ => none
    | .refused _ => none
    | .next t =>
      match run k t with
      | none => none
      | some (rs, u) => some ((delivered s).toList ++ rs, u)

/-- Cloning (10_state R33, an operation of the model only, D22): the core `dst` with live, state and index of `src`. -/
def cloneInto {W : Nat} {p : Params W} (src dst : CoreState p) : CoreState p :=
  { dst with live := src.live, words := src.words, index := src.index }

end Sys2Proof.Machine
end

