-- ==== Sys2Proof/Safety.lean ====
section
/-! DEFINITION. Safety.lean: the invariant of the machine, what a clean run and a well-behaved host are, and the terms in
which the spec speaks of output sequences. -/

namespace Sys2Proof.Machine

variable {W : Nat} {p : Params W}

/-- The invariant of one core. Live: the index holds a value from 1 to N (10_state R25; 41_generate R111 for the 1) and
every word holds a value. Not live: neither holds a value (10_state R34). A waiting response is one the core produces
(30_encoding R64), and its data is 0 unless it is OK (R61). -/
structure CoreState.Inv (c : CoreState p) : Prop where
  liveIndex : c.live = true → ∃ i, indexValue c = some i ∧ 1 ≤ i ∧ i ≤ p.n
  liveWords : c.live = true → ∀ k, k < p.n → ∃ v, readWord c.words k = some v
  deadIndex : c.live = false → c.index = none
  deadWords : c.live = false → ∀ k, readWord c.words k = none
  response : ∀ r, c.rsp = some r → r.status = .ok ∨ (r.status = .invalidHandle ∧ r.data = 0)

/-- The invariant of the machine: that of both cores. -/
structure State.Inv (s : State) : Prop where
  core32 : s.core32.Inv
  core64 : s.core64.Inv

/-- No command has met INVALID_HANDLE so far: the premise "no fault" of 93_implementation_defined §1 for U2 and U3. -/
abbrev State.Clean (s : State) : Prop := s.core32.misuse = false ∧ s.core64.misuse = false

/-- The inputs keep the host's side of the contract: one host (20_memory R49), and a presented command stays until its
acceptance, through a reset too (70_reset_and_hazards R163). -/
abbrev HostKeeps (c : CoreState p) (pins : Pins W) : Prop :=
  pins.secondHost = false ∧ handshakeBroken c pins = false

/-- Two cores of one width hold equal (live, state, index) (10_state R33). -/
abbrev SameEngine (c d : CoreState p) : Prop := c.live = d.live ∧ c.words = d.words ∧ c.index = d.index

/-- Undoing a right step `z = y ^ ((y >> k) & m)` of the temper: start from `z` and repeat ⌈W/k⌉ times (41_generate R105). -/
def undoRight (k : Nat) (m z : Word W) : Word W := (fun x : Word W => z ^^^ ((x >>> k) &&& m))^[(W + k - 1) / k] z

/-- Undoing a left step `z = y ^ ((y << k) & m)` of the temper (41_generate R105). -/
def undoLeft (k : Nat) (m z : Word W) : Word W := (fun x : Word W => z ^^^ ((x <<< k) &&& m))^[(W + k - 1) / k] z

/-- The inverse temper: the steps undone in reverse order, L, then T, then S, then U (41_generate R105). -/
def untemper (p : Params W) (z : Word W) : Word W :=
  undoRight p.u p.d (undoLeft p.s p.b (undoLeft p.t p.c (undoRight p.l (BitVec.allOnes W) z)))

/-- `x` is the raw sequence of seed `s` (41_generate R110): x[0..N-1] = SeedExpand(s), written out by the recurrence of
40_seeding R80, and then each word from the three N, N-1 and N-M places before it. -/
structure RawSequence (p : Params W) (s : Word W) (x : Nat → Word W) : Prop where
  first : x 0 = s
  seeded : ∀ i, 1 ≤ i → i < p.n → x i = p.f * (x (i - 1) ^^^ (x (i - 1) >>> (W - 2))) + BitVec.ofNat W i
  twisted : ∀ j, x (j + p.n) =
    x (j + p.m) ^^^ (((x j &&& p.upperMask) ||| (x (j + 1) &&& p.lowerMask)) >>> 1) ^^^
      (if ((x j &&& p.upperMask) ||| (x (j + 1) &&& p.lowerMask)).getLsbD 0 then p.a else 0)

/-- A command of the core of width `w` took `s` to `t` and left the rest of the machine as it was: the other core (60_exceptions
R150), the host's moves to come, and the command the host holds. -/
abbrev RestUnchanged (w : Width) (s t : State) : Prop :=
  (∀ v, v ≠ w → t.core v = s.core v) ∧ t.host = s.host ∧ (t.core w).held = (s.core w).held

/-- `k` transactions of `generate_W` after one of `create_W s` (41_generate R110). -/
def seedThenGenerate (w : Width) (s : Word w.bits) (k : Nat) : List Instr :=
  Instr.createOf w s :: List.replicate k (Instr.generateOf w)

end Sys2Proof.Machine
end

