-- ==== Sys2Proof/Certificates/Slice0/Obligations.lean ====
section
/-! DEFINITION. Certificates/Slice0/Obligations.lean: the statements for the provers, from the numbered rules of spec/. -/

open Sys2Proof Sys2Proof.Machine

/-! ### Parameters, encoding and codes -/

/-- 00_scope R5: every row of the parameter table with a value, for both widths (10_state R21, R22), and what the table's
ground column says of N*W - R and of the index width. The latencies are OPEN (log entry 8). -/
def Obligations.ParametersFitTheTable : Prop :=
  (Width.w32.bits = 32 ∧ (params .w32).n = 624 ∧ (params .w32).m = 397 ∧ (params .w32).r = 31 ∧
    (params .w32).a = 0x9908B0DF#32 ∧ (params .w32).u = 11 ∧ (params .w32).d = 0xFFFFFFFF#32 ∧ (params .w32).s = 7 ∧
    (params .w32).b = 0x9D2C5680#32 ∧ (params .w32).t = 15 ∧ (params .w32).c = 0xEFC60000#32 ∧ (params .w32).l = 18 ∧
    (params .w32).f = 0x6C078965#32 ∧ (params .w32).lowerMask = 0x7FFFFFFF#32 ∧
    (params .w32).upperMask = 0x80000000#32 ∧ (params .w32).defaultSeed = 5489#32 ∧ (params .w32).idxBits = 10) ∧
  (Width.w64.bits = 64 ∧ (params .w64).n = 312 ∧ (params .w64).m = 156 ∧ (params .w64).r = 31 ∧
    (params .w64).a = 0xB5026F5AA96619E9#64 ∧ (params .w64).u = 29 ∧ (params .w64).d = 0x5555555555555555#64 ∧
    (params .w64).s = 17 ∧ (params .w64).b = 0x71D67FFFEDA60000#64 ∧ (params .w64).t = 37 ∧
    (params .w64).c = 0xFFF7EEE000000000#64 ∧ (params .w64).l = 43 ∧ (params .w64).f = 0x5851F42D4C957F2D#64 ∧
    (params .w64).lowerMask = 0x7FFFFFFF#64 ∧ (params .w64).upperMask = 0xFFFFFFFF80000000#64 ∧
    (params .w64).defaultSeed = 5489#64 ∧ (params .w64).idxBits = 9) ∧
  (∀ w : Width, (params w).n * w.bits - (params w).r = 19937 ∧ (params w).idxBits = Nat.clog 2 ((params w).n + 1) ∧
    (params w).m < (params w).n)

/-- 30_encoding R62: the opcode map, for both ports and whatever the seed field holds. -/
def Obligations.OpcodeSelectsTheCommand : Prop :=
  (∀ seed : BitVec 32,
    decode (.on32 ⟨0b00#2, seed⟩) = .default32 ∧ decode (.on32 ⟨0b01#2, seed⟩) = .create32 seed ∧
    decode (.on32 ⟨0b10#2, seed⟩) = .generate32 ∧ decode (.on32 ⟨0b11#2, seed⟩) = .release32) ∧
  (∀ seed : BitVec 64,
    decode (.on64 ⟨0b00#2, seed⟩) = .default64 ∧ decode (.on64 ⟨0b01#2, seed⟩) = .create64 seed ∧
    decode (.on64 ⟨0b10#2, seed⟩) = .generate64 ∧ decode (.on64 ⟨0b11#2, seed⟩) = .release64)

/-- 30_encoding R65: every value of cmd_op decodes to a command with that opcode on that port; no command produces status
0b10 or 0b11; a host that receives one faults. -/
def Obligations.NoReservedOpcodeAndForeignStatusFaults : Prop :=
  (∀ (w : Width) (cmd : Cmd w.bits),
    (decode (presentedOn w cmd)).opcode = cmd.op ∧ (decode (presentedOn w cmd)).width = w) ∧
  (∀ (i : Instr) (s t : State) (r : Response i.width.bits), exec i s = .next t → (t.core i.width).rsp = some r →
    statusCode r.status ≠ 0b10#2 ∧ statusCode r.status ≠ 0b11#2) ∧
  (∀ (w : Width) (s : State) (pins : Pins w.bits) (rest : List HostMove) (r : Response w.bits),
    s.host = moveOn w pins :: rest → pins.secondHost = false → pins.rst = false →
    handshakeBroken (s.core w) pins = false → (s.core w).rsp = some r → pins.rspReady = true →
    (statusCode r.status = 0b10#2 ∨ statusCode r.status = 0b11#2) → step s = .fault .foreignStatus)

/-- 30_encoding R60, R61: the packed command and response words; their fields stand where the notation puts them, and
packing loses nothing. -/
def Obligations.PackedWordsHoldTheirFields : Prop :=
  (∀ (W : Nat) (cmd : Cmd W), cmd.pack.extractLsb' 0 2 = cmd.op ∧ cmd.pack.extractLsb' 2 W = cmd.seed ∧
    Cmd.unpack cmd.pack = cmd) ∧
  (∀ (W : Nat) (word : BitVec (W + 2)), (Cmd.unpack word).pack = word) ∧
  (∀ (W : Nat) (r : Response W), (packResponse r).extractLsb' 0 2 = statusCode r.status ∧
    (packResponse r).extractLsb' 2 W = r.data) ∧
  (∀ (W : Nat) (q r : Response W), packResponse q = packResponse r → q = r)

/-- 30_encoding R64: the four codes; a response is INVALID_HANDLE exactly from a generate or a release on a core that is
not live, and OK from every other command. The other two codes are never produced. -/
def Obligations.StatusCodesAndWhoProducesThem : Prop :=
  (statusCode .ok = 0b00#2 ∧ statusCode .invalidHandle = 0b01#2 ∧ statusCode .allocationFailure = 0b10#2 ∧
    statusCode .reserved = 0b11#2) ∧
  (∀ (i : Instr) (s t : State), exec i s = .next t → ∃ r, (t.core i.width).rsp = some r ∧
    (r.status = .invalidHandle ↔ (s.core i.width).live = false ∧
      (i = Instr.generateOf i.width ∨ i = Instr.releaseOf i.width)) ∧
    (r.status = .ok ↔ ¬ ((s.core i.width).live = false ∧
      (i = Instr.generateOf i.width ∨ i = Instr.releaseOf i.width))))

/-- Decoding after encoding gives the command back, with every seed, as a presented command and as a packed word. -/
def Obligations.DecodeOfEncodeIsTheCommand : Prop :=
  ∀ i : Instr, decode (encode i) = i ∧ decodeTableWord i.wordBits (encodeWord i) = some i ∧
    i.wellFormed i.width = true

/-- Encoding after decoding gives the packed word back where the command is a create, and otherwise the word with its
ignored seed field cleared (30_encoding R60, R63). -/
def Obligations.EncodeOfDecodedWord : Prop :=
  ∀ (w : Width) (word : Nat) (i : Instr), decodePacked w word = .ok i →
    i.width = w ∧ encodeWord i = if i.opcode = 0b01#2 then word else word % 4

/-- 30_encoding R60: a number is a packed command word exactly if it has W+2 bits; every other is refused by name. -/
def Obligations.TooWideWordsAreRefused : Prop :=
  ∀ (w : Width) (word : Nat), decodePacked w word = .error .wordTooWide ↔ 2 ^ (w.bits + 2) ≤ word

/-- Command words of 95_test_vectors P1, P2, P3, P5 decode to the commands their listings print. -/
def Obligations.ListedWordsDecode : Prop :=
  decodeTableWord 34 0x0000055C5 = some (.create32 5489) ∧ decodeTableWord 34 0x000000002 = some .generate32 ∧
  decodeTableWord 34 0x000000005 = some (.create32 1) ∧ decodeTableWord 66 0x00000000000000000 = some .default64 ∧
  decodeTableWord 66 0x00000000000000003 = some .release64 ∧
  decodeTableWord 66 0x00000000000000001 = some (.create64 0)

/-! ### The step and the handshake -/

/-- When a command is presented by one host, the core is out of reset, no response waits and the host has not broken the
handshake, the step is exec of the decoded command, after the move is consumed and the held command let go. -/
def Obligations.StepRunsThePresentedCommand : Prop :=
  ∀ (w : Width) (s : State) (pins : Pins w.bits) (rest : List HostMove),
    s.host = moveOn w pins :: rest → pins.secondHost = false → pins.rst = false →
    handshakeBroken (s.core w) pins = false → (s.core w).rsp = none → pins.cmdValid = true →
    step s = exec (decode (presentedOn w pins.cmd))
      (({ s with host := rest } : State).setCore w { s.core w with held := none })

/-- A table word that decodes to a command is run by the very next step once placed (the model's choice of log entry 9). -/
def Obligations.PlacedWordIsRunByTheNextStep : Prop :=
  ∀ (s : State) (nbits word : Nat) (i : Instr), decodeTableWord nbits word = some i →
    step (s.withFetchWord nbits word) =
      exec i (s.setCore i.width { s.core i.width with rsp := none, held := none })

/-- 30_encoding R61, 70 R163: while a response waits, no command is accepted whatever is presented; the response is held
steady until the host takes it, and then the port is free; the core's engine does not change meanwhile. A command presented
meanwhile is the one the host must keep steady from then on (R163), and none is where it presents none. -/
def Obligations.ResponseWaitsUntilTaken : Prop :=
  ∀ (w : Width) (s : State) (pins : Pins w.bits) (rest : List HostMove) (r : Response w.bits),
    s.host = moveOn w pins :: rest → HostKeeps (s.core w) pins → pins.rst = false → (s.core w).rsp = some r →
    (statusCode r.status = 0b00#2 ∨ statusCode r.status = 0b01#2) →
    ∃ t, step s = .next t ∧ (t.core w).rsp = (if pins.rspReady = true then none else some r) ∧
      (t.core w).held = (if pins.cmdValid = true then some pins.cmd else none) ∧
      SameEngine (t.core w) (s.core w) ∧ (t.core w).twists = (s.core w).twists ∧
      (∀ v, v ≠ w → t.core v = s.core v) ∧ t.host = rest

/-- A run is refused exactly where the host breaks its contract: two hosts on one port (20_memory R49), or a presented
command changed or withdrawn before its acceptance, be it in a moment of reset (70 R163). -/
def Obligations.RefusedExactlyWhenHostBreaksContract : Prop :=
  ∀ (s : State) (r : Refusal), step s = .refused r ↔
    ∃ (w : Width) (pins : Pins w.bits) (rest : List HostMove), s.host = moveOn w pins :: rest ∧
      ((r = .sharedPort ∧ pins.secondHost = true) ∨
       (r = .commandChanged ∧ pins.secondHost = false ∧
         ∃ cmd, (s.core w).held = some cmd ∧ ¬ (pins.cmdValid = true ∧ pins.cmd = cmd)))

/-- 10_state R32: the state after reset. -/
def Obligations.ResetValues : Prop :=
  ∀ w : Width, (State.reset.core w).live = false ∧ (∀ k, readWord (State.reset.core w).words k = none) ∧
    (State.reset.core w).index = none ∧ (State.reset.core w).twists = 0 ∧ cmdReady (State.reset.core w) = true ∧
    rspValid (State.reset.core w) = false

/-- 70 R160: a moment with rst = 1 accepts nothing and answers nothing, drops a waiting response, and leaves the values of
10_state R32, from any state and whatever a host that keeps R49 and R163 drives. A command presented meanwhile is the one
the host must keep steady from then on (R163). -/
def Obligations.ResetReplacesEveryElement : Prop :=
  ∀ (w : Width) (s : State) (pins : Pins w.bits) (rest : List HostMove),
    s.host = moveOn w pins :: rest → HostKeeps (s.core w) pins → pins.rst = true →
    ∃ t, step s = .next t ∧ (t.core w).live = false ∧ (∀ k, readWord (t.core w).words k = none) ∧
      (t.core w).index = none ∧ (t.core w).twists = 0 ∧ cmdReady (t.core w) = true ∧ rspValid (t.core w) = false ∧
      (t.core w).held = (if pins.cmdValid = true then some pins.cmd else none) ∧
      (∀ v, v ≠ w → t.core v = s.core v) ∧ t.host = rest

/-- 60_exceptions R152: an idle core holds all its state, both when the host drives nothing at all (the model's choice,
log entry 3) and when it drives no command while no response waits. -/
def Obligations.IdleCoreHoldsItsState : Prop :=
  (∀ s : State, s.host = [] → step s = .next s) ∧
  (∀ (w : Width) (s : State) (pins : Pins w.bits) (rest : List HostMove),
    s.host = moveOn w pins :: rest → pins.secondHost = false → pins.rst = false → pins.cmdValid = false →
    (s.core w).rsp = none → (s.core w).held = none → step s = .next { s with host := rest })

/-- One transaction of the handshake is one transaction of a session: a command presented alone and its response, which
stands on that core's port, taken at the next moment (20_memory R45, 70 R163). -/
def Obligations.HandshakeCarriesOneTransaction : Prop :=
  ∀ (w : Width) (cmd : Cmd w.bits) (s t : State) (rest : List HostMove) (r : Reply),
    s.host = moveOn w (presentPins cmd) :: moveOn w (takePins w.bits) :: rest →
    (s.core w).rsp = none → (s.core w).held = none →
    transact (decode (presentedOn w cmd)) { s with host := rest } = some (r, t) →
    ∃ u q, step s = .next u ∧ (u.core w).rsp = some q ∧ r = replyOf w q ∧ delivered u = some r ∧ step u = .next t

/-! ### The invariant -/

/-- The invariant holds at reset. -/
def Obligations.InvariantAtReset : Prop := State.reset.Inv

/-- Every step from any state that meets the invariant keeps it (10_state R25, R34; 30_encoding R61, R64; the index is
never 0 between commands, 41_generate R111). -/
def Obligations.EveryStepKeepsTheInvariant : Prop :=
  ∀ s t : State, s.Inv → step s = .next t → t.Inv

/-- No step from a state that meets the invariant faults (93_implementation_defined U6, U7, U8: unreachable). -/
def Obligations.NoFaultUnderTheInvariant : Prop :=
  ∀ (s : State) (f : Fault), s.Inv → step s ≠ .fault f

/-- Every sequence of commands is answered, one response each, from any state that meets the invariant (20_memory R47,
70 R165 with all delays left out). -/
def Obligations.EverySessionIsAnswered : Prop :=
  ∀ (is : List Instr) (s : State), s.Inv → ∃ rs t, session is s = some (rs, t) ∧ rs.length = is.length ∧ t.Inv

/-! ### Seeding -/

/-- 40_seeding R80: SeedExpand, word by word. -/
def Obligations.SeedExpandFollowsTheRecurrence : Prop :=
  ∀ (w : Width) (s : Word w.bits), (seedExpand (params w) s)[0]? = some s ∧
    ∀ i, 1 ≤ i → i < (params w).n → ∃ x, (seedExpand (params w) s)[i - 1]? = some x ∧
      (seedExpand (params w) s)[i]? =
        some ((params w).f * (x ^^^ (x >>> (w.bits - 2))) + BitVec.ofNat w.bits i)

/-- 40_seeding R81, create_32 and create_64: in every state and for every seed the command completes; all N words are
SeedExpand's, index is N, live is 1, twists is 0, the response is (OK, 0), the core is EXHAUSTED; the rest of the machine
is unchanged. -/
def Obligations.CreateSeedsTheCore : Prop :=
  ∀ (w : Width) (seed : Word w.bits) (s : State), ∃ t, exec (Instr.createOf w seed) s = .next t ∧
    (∀ k, k < (params w).n → readWord (t.core w).words k = (seedExpand (params w) seed)[k]?) ∧
    indexValue (t.core w) = some (params w).n ∧ (t.core w).live = true ∧ (t.core w).twists = 0 ∧
    (t.core w).rsp = some ⟨.ok, 0⟩ ∧ logical (t.core w) = some .exhausted ∧
    RestUnchanged w s t ∧ (t.core w).misuse = (s.core w).misuse

/-- 40_seeding R83, R85, default_32 and default_64: in every state the command completes as the create with seed 5489. -/
def Obligations.DefaultSeedsWith5489 : Prop :=
  ∀ (w : Width) (s : State), exec (Instr.defaultOf w) s = exec (Instr.createOf w (BitVec.ofNat w.bits 5489)) s ∧
    ∃ t, exec (Instr.defaultOf w) s = .next t ∧
      (∀ k, k < (params w).n →
        readWord (t.core w).words k = (seedExpand (params w) (BitVec.ofNat w.bits 5489))[k]?) ∧
      indexValue (t.core w) = some (params w).n ∧ (t.core w).live = true ∧ (t.core w).twists = 0 ∧
      (t.core w).rsp = some ⟨.ok, 0⟩ ∧ RestUnchanged w s t ∧ (t.core w).misuse = (s.core w).misuse

/-- 40_seeding R86: a create or default on any core, live or not, leaves the (live, state, index) and twist count it
leaves of a core fresh from reset, and every later response of that core is the one that core gives. -/
def Obligations.ReseedingForgetsThePast : Prop :=
  ∀ (w : Width) (i : Instr) (s : State), (i = Instr.defaultOf w ∨ ∃ seed, i = Instr.createOf w seed) →
    (∃ t u, exec i s = .next t ∧ exec i State.reset = .next u ∧ SameEngine (t.core w) (u.core w) ∧
      (t.core w).twists = (u.core w).twists ∧ (t.core w).rsp = (u.core w).rsp) ∧
    ∀ is : List Instr, (∀ j ∈ is, j.width = w) →
      (session (i :: is) s).map Prod.fst = (session (i :: is) State.reset).map Prod.fst

/-- 40_seeding R87: the seeding facts: word 0 is the seed, so SeedExpand is injective; words 1 and 2 of seed 0; no seed
gives an all-zero array; each word depends on the seed, its position, W and F alone. -/
def Obligations.SeedingFacts : Prop :=
  (∀ (w : Width) (s : Word w.bits) (c : CoreState (params w)), readWord (seed s c).words 0 = some s) ∧
  (∀ (w : Width) (s s' : Word w.bits), seedExpand (params w) s = seedExpand (params w) s' → s = s') ∧
  ((seedExpand (params .w32) 0)[1]? = some 1 ∧ (seedExpand (params .w32) 0)[2]? = some 0x6C078967#32 ∧
    (seedExpand (params .w64) 0)[1]? = some 1 ∧ (seedExpand (params .w64) 0)[2]? = some 0x5851F42D4C957F2F#64) ∧
  (∀ (w : Width) (s : Word w.bits), ∃ k, k < (params w).n ∧ ∃ v, (seedExpand (params w) s)[k]? = some v ∧ v ≠ 0) ∧
  (∀ (w : Width) (s : Word w.bits) (c d : CoreState (params w)), (seed s c).words = (seed s d).words) ∧
  (∀ (W : Nat) (p q : Params W) (s : Word W) (k : Nat), p.f = q.f → k < p.n → k < q.n →
    (seedExpand p s)[k]? = (seedExpand q s)[k]?)

/-- 60_exceptions R142: the seeding commands respond OK in every state, for every seed; a generate on a live core never
fails: its index is a value up to N and its words hold values, in every state not built by hand (10_state R25, R34). -/
def Obligations.SeedingAndLiveGenerateNeverFail : Prop :=
  (∀ (w : Width) (seed : Word w.bits) (s : State),
    (∃ t, exec (Instr.createOf w seed) s = .next t ∧ (t.core w).rsp = some ⟨.ok, 0⟩) ∧
    (∃ t, exec (Instr.defaultOf w) s = .next t ∧ (t.core w).rsp = some ⟨.ok, 0⟩)) ∧
  (∀ (w : Width) (s : State) (i : Nat), (s.core w).live = true → indexValue (s.core w) = some i → i ≤ (params w).n →
    (∀ k, k < (params w).n → ∃ v, readWord (s.core w).words k = some v) →
    ∃ t y, exec (Instr.generateOf w) s = .next t ∧ (t.core w).rsp = some ⟨.ok, temper (params w) y⟩)

/-! ### The twist and the temper -/

/-- 41_generate R101: the three bands of the twist, for every array all of whose words hold a value, and the function tw
written out. -/
def Obligations.TwistBands : Prop :=
  (∀ (w : Width) (a b c : Word w.bits), twistWord (params w) a b c =
    c ^^^ (((a &&& (params w).upperMask) ||| (b &&& (params w).lowerMask)) >>> 1) ^^^
      (if ((a &&& (params w).upperMask) ||| (b &&& (params w).lowerMask)).getLsbD 0 = true then (params w).a else 0)) ∧
  (∀ (w : Width) (ws : Storage (params w)) (old : Nat → Word w.bits),
    (∀ k, k < (params w).n → readWord ws k = some (old k)) →
    ∃ (ws' : Storage (params w)) (new : Nat → Word w.bits), twist (params w) ws = some ws' ∧ (∀ k, k < (params w).n → readWord ws' k = some (new k)) ∧
      (∀ i, i < (params w).n - (params w).m →
        new i = twistWord (params w) (old i) (old (i + 1)) (old (i + (params w).m))) ∧
      (∀ i, (params w).n - (params w).m ≤ i → i < (params w).n - 1 →
        new i = twistWord (params w) (old i) (old (i + 1)) (new (i + (params w).m - (params w).n))) ∧
      new ((params w).n - 1) =
        twistWord (params w) (old ((params w).n - 1)) (new 0) (new ((params w).m - 1)))

/-- 41_generate R102: odd(y) is bit 0 of the next word; bit W-1 of the new word; only bits W-1..R of the first old word
matter; the twist is a function of the array alone, so it runs the same in any two cores. -/
def Obligations.TwistFacts : Prop :=
  (∀ (w : Width) (a b : Word w.bits), (twistMix (params w) a b).getLsbD 0 = b.getLsbD 0) ∧
  (∀ (w : Width) (a b c : Word w.bits), ((twistMix (params w) a b) >>> 1).getLsbD (w.bits - 1) = false ∧
    (params w).a.getLsbD (w.bits - 1) = true ∧
    (twistWord (params w) a b c).getLsbD (w.bits - 1) = (c.getLsbD (w.bits - 1) ^^ b.getLsbD 0)) ∧
  (∀ (w : Width) (ws : Storage (params w)) (a a' : Word w.bits), readWord ws 0 = some a →
    a &&& (params w).upperMask = a' &&& (params w).upperMask →
    twist (params w) (writeWord ws 0 a') = twist (params w) ws) ∧
  (∀ (w : Width) (c d : CoreState (params w)), c.words = d.words → twist (params w) c.words = twist (params w) d.words)

/-- 41_generate R104: the four steps of the temper, with shifts truncated to W bits. -/
def Obligations.TemperFormula : Prop :=
  (∀ y : BitVec 32, temper (params .w32) y =
    let y1 := y ^^^ ((y >>> 11) &&& 0xFFFFFFFF#32)
    let y2 := y1 ^^^ ((y1 <<< 7) &&& 0x9D2C5680#32)
    let y3 := y2 ^^^ ((y2 <<< 15) &&& 0xEFC60000#32)
    y3 ^^^ (y3 >>> 18)) ∧
  (∀ y : BitVec 64, temper (params .w64) y =
    let y1 := y ^^^ ((y >>> 29) &&& 0x5555555555555555#64)
    let y2 := y1 ^^^ ((y1 <<< 17) &&& 0x71D67FFFEDA60000#64)
    let y3 := y2 ^^^ ((y2 <<< 37) &&& 0xFFF7EEE000000000#64)
    y3 ^^^ (y3 >>> 43))

/-- 41_generate R105: Temper(0) = 0; each right and left step is undone by the iteration of the rule; the inverse temper
undoes the steps in reverse order; Temper is a bijection, and equal outputs come only from equal words. -/
def Obligations.TemperIsABijection : Prop :=
  (∀ w : Width, temper (params w) 0 = 0) ∧
  (∀ (W k : Nat) (m y : Word W), 1 ≤ k → undoRight k m (y ^^^ ((y >>> k) &&& m)) = y) ∧
  (∀ (W k : Nat) (m y : Word W), 1 ≤ k → undoLeft k m (y ^^^ ((y <<< k) &&& m)) = y) ∧
  (∀ (w : Width) (y : Word w.bits), untemper (params w) (temper (params w) y) = y) ∧
  (∀ w : Width, Function.Bijective (temper (params w))) ∧
  (∀ (w : Width) (y z : Word w.bits), temper (params w) y = temper (params w) z → y = z)

/-! ### Generate -/

/-- 41_generate R106, generate_32 and generate_64 below N: the command completes; it returns the tempered word at the
index, advances the index by one, and changes nothing else. -/
def Obligations.GenerateBelowNExtracts : Prop :=
  ∀ (w : Width) (s : State) (i : Nat) (y : Word w.bits), (s.core w).live = true →
    indexValue (s.core w) = some i → i < (params w).n → readWord (s.core w).words i = some y →
    ∃ t, exec (Instr.generateOf w) s = .next t ∧ (t.core w).rsp = some ⟨.ok, temper (params w) y⟩ ∧
      indexValue (t.core w) = some (i + 1) ∧ (t.core w).words = (s.core w).words ∧ (t.core w).live = true ∧
      (t.core w).twists = (s.core w).twists ∧ (t.core w).misuse = (s.core w).misuse ∧ RestUnchanged w s t

/-- 41_generate R100, R106, generate_32 and generate_64 at N: the command completes; the array is twisted once, index is
1, twists one more, the response is the tempered first new word, and nothing else changes. -/
def Obligations.GenerateAtNTwistsFirst : Prop :=
  ∀ (w : Width) (s : State), (s.core w).live = true → indexValue (s.core w) = some (params w).n →
    (∀ k, k < (params w).n → ∃ v, readWord (s.core w).words k = some v) →
    ∃ t ws y, exec (Instr.generateOf w) s = .next t ∧ twist (params w) (s.core w).words = some ws ∧
      (t.core w).words = ws ∧ readWord ws 0 = some y ∧ (t.core w).rsp = some ⟨.ok, temper (params w) y⟩ ∧
      indexValue (t.core w) = some 1 ∧ (t.core w).live = true ∧ (t.core w).twists = (s.core w).twists + 1 ∧
      (t.core w).misuse = (s.core w).misuse ∧ RestUnchanged w s t

/-- 10_state R25 (D17, U7): a generate on a live core with an index above N is a fault, not a twist. -/
def Obligations.IndexAboveNFaults : Prop :=
  ∀ (w : Width) (s : State) (i : Nat), (s.core w).live = true → indexValue (s.core w) = some i → (params w).n < i →
    exec (Instr.generateOf w) s = .fault .indexAboveN

/-- 10_state R34, 20_memory R41 (U6): a generate on a live core faults where it reads an index or a word that holds no
value: the word at the index, or, at N, any word. -/
def Obligations.ReadsOfNoValueFault : Prop :=
  (∀ (w : Width) (s : State), (s.core w).live = true → (s.core w).index = none →
    exec (Instr.generateOf w) s = .fault .unwrittenIndex) ∧
  (∀ (w : Width) (s : State) (i : Nat), (s.core w).live = true → indexValue (s.core w) = some i → i < (params w).n →
    readWord (s.core w).words i = none → exec (Instr.generateOf w) s = .fault .unwrittenWord) ∧
  (∀ (w : Width) (s : State) (k : Nat), (s.core w).live = true → indexValue (s.core w) = some (params w).n →
    k < (params w).n → readWord (s.core w).words k = none → exec (Instr.generateOf w) s = .fault .unwrittenWord)

/-- 41_generate R103: the ghost twist count changes only in a generate of that core that finds it live with index N, by
one, or is set to 0 by a seeding command of that core. -/
def Obligations.TwistOnlyInAStaleGenerate : Prop :=
  ∀ (w : Width) (i : Instr) (s t : State), exec i s = .next t → (t.core w).twists ≠ (s.core w).twists →
    (i = Instr.generateOf w ∧ (s.core w).live = true ∧ indexValue (s.core w) = some (params w).n ∧
      (t.core w).twists = (s.core w).twists + 1) ∨
    ((i = Instr.defaultOf w ∨ ∃ seed, i = Instr.createOf w seed) ∧ (t.core w).twists = 0)

/-! ### Errors and release -/

/-- 60_exceptions R141: generate and release that find live = 0 respond (INVALID_HANDLE, 0) and write nothing of the core;
live is 0 after reset and after a release; a later create or default makes the core live again. -/
def Obligations.InvalidHandleWritesNoState : Prop :=
  (∀ (w : Width) (i : Instr) (s : State), (i = Instr.generateOf w ∨ i = Instr.releaseOf w) → (s.core w).live = false →
    ∃ t, exec i s = .next t ∧ (t.core w).rsp = some ⟨.invalidHandle, 0⟩ ∧ SameEngine (t.core w) (s.core w) ∧
      (t.core w).twists = (s.core w).twists ∧ RestUnchanged w s t) ∧
  (∀ w : Width, (State.reset.core w).live = false) ∧
  (∀ (w : Width) (s t : State), exec (Instr.releaseOf w) s = .next t → (t.core w).live = false) ∧
  (∀ (w : Width) (s : State), (∃ t, exec (Instr.defaultOf w) s = .next t ∧ (t.core w).live = true) ∧
    ∀ seed, ∃ t, exec (Instr.createOf w seed) s = .next t ∧ (t.core w).live = true)

/-- 42_release R130, release_32 and release_64: on a live core the command completes with (OK, 0); live is 0, no word and
no index holds a value, the twist count stays; until a seeding every later generate and release fails; on a core that is
not live it is INVALID_HANDLE. -/
def Obligations.ReleaseEndsTheInstance : Prop :=
  (∀ (w : Width) (s : State), (s.core w).live = true →
    ∃ t, exec (Instr.releaseOf w) s = .next t ∧ (t.core w).rsp = some ⟨.ok, 0⟩ ∧ (t.core w).live = false ∧
      (t.core w).index = none ∧ (∀ k, readWord (t.core w).words k = none) ∧
      (t.core w).twists = (s.core w).twists ∧ (t.core w).misuse = (s.core w).misuse ∧ RestUnchanged w s t ∧
      ∀ is : List Instr, (∀ i ∈ is, i = Instr.generateOf w ∨ i = Instr.releaseOf w) →
        ∃ u, session is t = some (is.map fun _ => replyOf w ⟨.invalidHandle, 0⟩, u)) ∧
  (∀ (w : Width) (s : State), (s.core w).live = false →
    ∃ t, exec (Instr.releaseOf w) s = .next t ∧ (t.core w).rsp = some ⟨.invalidHandle, 0⟩ ∧
      SameEngine (t.core w) (s.core w))

/-- 93_implementation_defined U2, U3: a use without an instance is recorded by the model, and no step ever clears the
record. -/
def Obligations.MisuseIsRecordedForGood : Prop :=
  (∀ (w : Width) (i : Instr) (s t : State), (i = Instr.generateOf w ∨ i = Instr.releaseOf w) →
    (s.core w).live = false → exec i s = .next t → (t.core w).misuse = true) ∧
  (∀ (w : Width) (s t : State), step s = .next t → (s.core w).misuse = true → (t.core w).misuse = true)

/-! ### Whole-machine rules -/

/-- 10_state R26, the access table, as a frame: what each command leaves unchanged in its own core when it answers a next
state. A release takes the values of words and index away (42_release R130). -/
def Obligations.FrameOfTheCommands : Prop :=
  ∀ (w : Width) (s t : State),
    ((s.core w).live = true → indexValue (s.core w) ≠ some (params w).n → exec (Instr.generateOf w) s = .next t →
      (t.core w).words = (s.core w).words ∧ (t.core w).live = (s.core w).live ∧
        (t.core w).twists = (s.core w).twists ∧ (t.core w).misuse = (s.core w).misuse ∧ RestUnchanged w s t) ∧
    ((s.core w).live = true → exec (Instr.generateOf w) s = .next t →
      (t.core w).live = (s.core w).live ∧ (t.core w).misuse = (s.core w).misuse ∧ RestUnchanged w s t) ∧
    ((s.core w).live = true → exec (Instr.releaseOf w) s = .next t →
      (t.core w).twists = (s.core w).twists ∧ (t.core w).misuse = (s.core w).misuse ∧ RestUnchanged w s t) ∧
    ((s.core w).live = false → exec (Instr.generateOf w) s = .next t ∨ exec (Instr.releaseOf w) s = .next t →
      SameEngine (t.core w) (s.core w) ∧ (t.core w).twists = (s.core w).twists ∧ RestUnchanged w s t) ∧
    (∀ seed, exec (Instr.defaultOf w) s = .next t ∨ exec (Instr.createOf w seed) s = .next t →
      (t.core w).misuse = (s.core w).misuse ∧ RestUnchanged w s t)

/-- 41_generate R109: the transitions of the logical state, with the responses. A generate of a live core needs its words
to hold values, which only a state built by hand denies it (10_state R34); the reset is one with a host that keeps R49 and
R163. -/
def Obligations.LogicalTransitions : Prop :=
  (∀ (w : Width) (s : State) (i : Instr), (i = Instr.defaultOf w ∨ ∃ seed, i = Instr.createOf w seed) →
    ∃ t, exec i s = .next t ∧ logical (t.core w) = some .exhausted ∧ indexValue (t.core w) = some (params w).n ∧
      (t.core w).rsp = some ⟨.ok, 0⟩) ∧
  (∀ (w : Width) (s : State) (i : Instr), (i = Instr.generateOf w ∨ i = Instr.releaseOf w) →
    logical (s.core w) = some .unseeded →
    ∃ t, exec i s = .next t ∧ logical (t.core w) = some .unseeded ∧ (t.core w).rsp = some ⟨.invalidHandle, 0⟩) ∧
  (∀ (w : Width) (s : State), (∀ k, k < (params w).n → ∃ v, readWord (s.core w).words k = some v) →
    logical (s.core w) = some .exhausted →
    ∃ t y, exec (Instr.generateOf w) s = .next t ∧ logical (t.core w) = some .fresh ∧
      indexValue (t.core w) = some 1 ∧ (t.core w).twists = (s.core w).twists + 1 ∧
      (t.core w).rsp = some ⟨.ok, temper (params w) y⟩) ∧
  (∀ (w : Width) (s : State) (i : Nat), (∀ k, k < (params w).n → ∃ v, readWord (s.core w).words k = some v) →
    logical (s.core w) = some .fresh → indexValue (s.core w) = some i →
    ∃ t y, exec (Instr.generateOf w) s = .next t ∧ indexValue (t.core w) = some (i + 1) ∧
      logical (t.core w) = (if i = (params w).n - 1 then some .exhausted else some .fresh) ∧
      (t.core w).rsp = some ⟨.ok, temper (params w) y⟩) ∧
  (∀ (w : Width) (s : State), logical (s.core w) = some .exhausted ∨ logical (s.core w) = some .fresh →
    ∃ t, exec (Instr.releaseOf w) s = .next t ∧ logical (t.core w) = some .unseeded ∧
      (t.core w).rsp = some ⟨.ok, 0⟩) ∧
  (∀ (w : Width) (s : State) (pins : Pins w.bits) (rest : List HostMove), s.host = moveOn w pins :: rest →
    HostKeeps (s.core w) pins → pins.rst = true →
    ∃ t, step s = .next t ∧ logical (t.core w) = some .unseeded ∧ (t.core w).rsp = none)

/-- 60_exceptions R150: a command of one core leaves the other core and the host's moves alone, its effect on its own core
does not depend on the other core, and commands of the two cores commute. -/
def Obligations.CoresShareNothing : Prop :=
  (∀ (i : Instr) (s t : State), exec i s = .next t →
    (∀ w, w ≠ i.width → t.core w = s.core w) ∧ t.host = s.host) ∧
  (∀ (i : Instr) (s s' t : State), s.core i.width = s'.core i.width → exec i s = .next t →
    ∃ t', exec i s' = .next t' ∧ t'.core i.width = t.core i.width) ∧
  (∀ (i j : Instr) (s t u : State), i.width ≠ j.width → exec i s = .next t → exec j t = .next u →
    ∃ v, exec j s = .next v ∧ exec i v = .next u)

/-- 30_encoding R61: a command that answers a next state has given exactly one response, and its data is 0 unless it is
the OK response of a generate. -/
def Obligations.OnlyGenerateReturnsData : Prop :=
  ∀ (i : Instr) (s t : State), exec i s = .next t → ∃ r, (t.core i.width).rsp = some r ∧
    (r.data ≠ 0 → i = Instr.generateOf i.width ∧ r.status = .ok ∧ (s.core i.width).live = true)

/-- 20_memory R46: create and default are idempotent; a second release fails and leaves the state of the first; a
generate on a live core moves the index, whatever the state, and two generates in a row return successive words of the
array and of the sequence a seed starts. -/
def Obligations.IdempotencyOfTheCommands : Prop :=
  (∀ (w : Width) (seed : Word w.bits) (s t : State), exec (Instr.createOf w seed) s = .next t →
    exec (Instr.createOf w seed) t = .next t) ∧
  (∀ (w : Width) (s t : State), exec (Instr.defaultOf w) s = .next t → exec (Instr.defaultOf w) t = .next t) ∧
  (∀ (w : Width) (s t : State), exec (Instr.releaseOf w) s = .next t →
    ∃ u, exec (Instr.releaseOf w) t = .next u ∧ (u.core w).rsp = some ⟨.invalidHandle, 0⟩ ∧
      SameEngine (u.core w) (t.core w)) ∧
  (∀ (w : Width) (s t : State), (s.core w).live = true → exec (Instr.generateOf w) s = .next t →
    indexValue (t.core w) ≠ indexValue (s.core w)) ∧
  (∀ (w : Width) (s : State) (i : Nat) (y z : Word w.bits), (s.core w).live = true →
    indexValue (s.core w) = some i → i + 1 < (params w).n → readWord (s.core w).words i = some y →
    readWord (s.core w).words (i + 1) = some z →
    ∃ t u, exec (Instr.generateOf w) s = .next t ∧ exec (Instr.generateOf w) t = .next u ∧
      (t.core w).rsp = some ⟨.ok, temper (params w) y⟩ ∧ (u.core w).rsp = some ⟨.ok, temper (params w) z⟩) ∧
  (∀ (w : Width) (seed : Word w.bits) (x : Nat → Word w.bits), RawSequence (params w) seed x →
    ∀ (s : State) (k : Nat), 1 ≤ k → ∃ rs t, session (seedThenGenerate w seed (k + 1)) s = some (rs, t) ∧
      rs[k]? = some (replyOf w ⟨.ok, temper (params w) (x ((params w).n + k - 1))⟩) ∧
      rs[k + 1]? = some (replyOf w ⟨.ok, temper (params w) (x ((params w).n + k))⟩))

/-- 20_memory R47, of the machine's steps: when the host presents the commands of a list one after another, taking each
response before the next, to cores with no response and no held command, the steps deliver exactly the session's replies
in the order of the commands and end in the session's state (a step stops exactly if the session does); each reply comes
from the core of its command, one for each; and commands presented afterwards continue from the state the first left. -/
def Obligations.SessionsAreSequential : Prop :=
  (∀ (is : List Instr) (s : State) (rest : List HostMove), s.host = programMoves is ++ rest →
    (∀ w, (s.core w).rsp = none ∧ (s.core w).held = none) →
    run (2 * is.length) s = session is { s with host := rest }) ∧
  (∀ (is : List Instr) (s t : State) (rest : List HostMove) (rs : List Reply), s.host = programMoves is ++ rest →
    (∀ w, (s.core w).rsp = none ∧ (s.core w).held = none) → run (2 * is.length) s = some (rs, t) →
    rs.map Reply.width = is.map Instr.width ∧ t.host = rest ∧ ∀ w, (t.core w).rsp = none ∧ (t.core w).held = none) ∧
  (∀ (is js : List Instr) (s t u : State) (rest : List HostMove) (rs qs : List Reply),
    s.host = programMoves is ++ (programMoves js ++ rest) → (∀ w, (s.core w).rsp = none ∧ (s.core w).held = none) →
    run (2 * is.length) s = some (rs, t) → run (2 * js.length) t = some (qs, u) →
    session (is ++ js) { s with host := rest } = some (rs ++ qs, u)) ∧
  (∀ (is : List Instr) (s : State) (rest : List HostMove), s.Inv → s.host = programMoves is ++ rest →
    (∀ w, (s.core w).rsp = none ∧ (s.core w).held = none) → ∃ rs t, run (2 * is.length) s = some (rs, t))

/-- 10_state R33: two cores of one width with equal (live, state, index) give equal responses to equal command sequences;
cloning makes such a pair. -/
def Obligations.EqualEnginesAnswerAlike : Prop :=
  (∀ (w : Width) (s t : State) (is : List Instr), SameEngine (s.core w) (t.core w) → (∀ i ∈ is, i.width = w) →
    (session is s).map Prod.fst = (session is t).map Prod.fst) ∧
  (∀ (w : Width) (c d : CoreState (params w)), SameEngine (cloneInto c d) c)

/-- 41_generate R110: the k-th generate after create_W s answers OK with Temper(x[N+k-1]), and after t twists state[i] is
x[t*N + i]. -/
def Obligations.OutputSequenceClosedForm : Prop :=
  ∀ (w : Width) (seed : Word w.bits) (x : Nat → Word w.bits), RawSequence (params w) seed x →
    ∀ (s : State) (k : Nat), 1 ≤ k → ∃ rs t, session (seedThenGenerate w seed k) s = some (rs, t) ∧
      rs[k]? = some (replyOf w ⟨.ok, temper (params w) (x ((params w).n + k - 1))⟩) ∧
      ∀ i, i < (params w).n →
        readWord (t.core w).words i = some (x ((t.core w).twists * (params w).n + i))

/-- 41_generate R111: the twist count and the index after a create or a default and k generates. -/
def Obligations.TwistCountAndIndex : Prop :=
  ∀ (w : Width) (i : Instr) (s : State) (k : Nat), (i = Instr.defaultOf w ∨ ∃ seed, i = Instr.createOf w seed) →
    ∃ rs t, session (i :: List.replicate k (Instr.generateOf w)) s = some (rs, t) ∧
      (k = 0 → (t.core w).twists = 0 ∧ indexValue (t.core w) = some (params w).n) ∧
      (1 ≤ k → (t.core w).twists = (k + (params w).n - 1) / (params w).n ∧
        indexValue (t.core w) = some (k - (params w).n * ((k + (params w).n - 1) / (params w).n - 1)) ∧
        1 ≤ k - (params w).n * ((k + (params w).n - 1) / (params w).n - 1) ∧
        k - (params w).n * ((k + (params w).n - 1) / (params w).n - 1) ≤ (params w).n) ∧
      (k = (params w).n → (t.core w).twists = 1) ∧ (k = (params w).n + 1 → (t.core w).twists = 2)

/-! ### Assembler -/

/-- 30_encoding R67, R68: what an assembler for the core of width `w` makes of each line once its text has been read, and
which read lines it refuses: one whose suffix is another width, a create whose seed is 2^W or more, zero copies of a
generate. The read lines accepted are the well-formed ones, and what is made of them are commands of that core. Then
programs: the lines' commands in order; and a bad line after accepted lines, be it that its text cannot be read or that it
is refused once read, refuses the program under its name. Which texts cannot be read is not stated here. The model's choice
of log entry 10 are two orders that this states: a read line with a foreign suffix and another of these defects is refused
for its suffix, and a program is refused under the name of its first bad line, whatever lines follow. -/
def Obligations.AssemblerAcceptsWellFormedLines : Prop :=
  (∀ w : Width, expandLine w .blank = .ok []) ∧
  (∀ w v : Width, expandLine w (.defaultW v) = if v = w then .ok [Instr.defaultOf w] else .error .wrongWidth) ∧
  (∀ w v : Width, expandLine w (.releaseW v) = if v = w then .ok [Instr.releaseOf w] else .error .wrongWidth) ∧
  (∀ w v : Width, expandLine w (.createW v none) = if v = w then .ok [Instr.defaultOf w] else .error .wrongWidth) ∧
  (∀ (w v : Width) (x : Nat), v ≠ w → expandLine w (.createW v (some x)) = .error .wrongWidth) ∧
  (∀ (w : Width) (x : Nat), 2 ^ w.bits ≤ x → expandLine w (.createW w (some x)) = .error .seedTooLarge) ∧
  (∀ (w : Width) (x : Nat), x < 2 ^ w.bits → ∃ seed : Word w.bits, seed.toNat = x ∧
    expandLine w (.createW w (some x)) = .ok [Instr.createOf w seed]) ∧
  (∀ (w v : Width) (n : Nat), v ≠ w → expandLine w (.generateW v n) = .error .wrongWidth) ∧
  (∀ w : Width, expandLine w (.generateW w 0) = .error .noCopies) ∧
  (∀ (w : Width) (n : Nat), 1 ≤ n → expandLine w (.generateW w n) = .ok (List.replicate n (Instr.generateOf w))) ∧
  (∀ (w : Width) (ln : Line), (∃ is, expandLine w ln = .ok is) ↔ ln.wellFormed w = true) ∧
  (∀ (w : Width) (ln : Line) (is : List Instr), expandLine w ln = .ok is → ∀ i ∈ is, i.wellFormed w = true) ∧
  (∀ w : Width, assemble w [] = .ok []) ∧
  (∀ (w : Width) (text : List Char) (ln : Line) (before rest : List (List Char)) (is js ks : List Instr),
    assemble w before = .ok js → parseLine text = .ok ln → expandLine w ln = .ok is → assemble w rest = .ok ks →
    assemble w (before ++ text :: rest) = .ok (js ++ (is ++ ks))) ∧
  (∀ (w : Width) (text : List Char) (ln : Line) (e : AsmError) (before rest : List (List Char)) (js : List Instr),
    assemble w before = .ok js → parseLine text = .ok ln → expandLine w ln = .error e →
    assemble w (before ++ text :: rest) = .error e) ∧
  (∀ (w : Width) (text : List Char) (e : AsmError) (before rest : List (List Char)) (js : List Instr),
    assemble w before = .ok js → parseLine text = .error e → assemble w (before ++ text :: rest) = .error e)

/-- 30_encoding R68: the two pseudo-instructions. -/
def Obligations.PseudoInstructionsExpand : Prop :=
  (∀ w : Width, expandLine w (.createW w none) = .ok [Instr.defaultOf w]) ∧
  (∀ (w : Width) (n : Nat), 1 ≤ n → expandLine w (.generateW w n) = .ok (List.replicate n (Instr.generateOf w)))
end

