-- ==== Sys2Proof/Laws/Assembler.lean ====
section
/-! SUPPORT. Laws/Assembler.lean: a program after lines that are accepted. -/

namespace Sys2Proof.Machine

/-- Accepted lines put their commands before what the rest of the program gives, and leave its refusal as it is. -/
theorem assemble_append {w : Width} {before : List (List Char)} {js : List Instr} (h : assemble w before = .ok js)
    (rest : List (List Char)) : assemble w (before ++ rest) = (assemble w rest).map (js ++ ·) := by
  induction before generalizing js with
  | nil =>
    obtain rfl : [] = js := by simpa [assemble] using h
    cases hr : assemble w rest <;> simp [hr, Except.map]
  | cons text before ih =>
    simp only [assemble] at h
    cases h1 : parseLine text with
    | error e => simp [h1] at h
    | ok ln =>
      cases h2 : expandLine w ln with
      | error e => simp [h1, h2] at h
      | ok is =>
        cases h3 : assemble w before with
        | error e => simp [h1, h2, h3] at h
        | ok qs =>
          obtain rfl : is ++ qs = js := by simpa [h1, h2, h3] using h
          simp only [List.cons_append, assemble, h1, h2, ih h3]
          cases assemble w rest <;> simp [Except.map]

end Sys2Proof.Machine
end

