-- ==== Sys2Proof/Laws/State.lean ====
section
/-! SUPPORT. Laws/State.lean: what every named update leaves in every field, each by rfl. -/

namespace Sys2Proof.Machine

variable {W : Nat} {p : Params W}

@[simp] theorem core_w32 (s : State) : s.core .w32 = s.core32 := rfl
@[simp] theorem core_w64 (s : State) : s.core .w64 = s.core64 := rfl
@[simp] theorem setCore_w32_core32 (s : State) (c : CoreState (params .w32)) : (s.setCore .w32 c).core32 = c := rfl
@[simp] theorem setCore_w32_core64 (s : State) (c : CoreState (params .w32)) :
    (s.setCore .w32 c).core64 = s.core64 := rfl
@[simp] theorem setCore_w64_core64 (s : State) (c : CoreState (params .w64)) : (s.setCore .w64 c).core64 = c := rfl
@[simp] theorem setCore_w64_core32 (s : State) (c : CoreState (params .w64)) :
    (s.setCore .w64 c).core32 = s.core32 := rfl

@[simp] theorem setCore_host (w : Width) (s : State) (c : CoreState (params w)) : (s.setCore w c).host = s.host := by
  cases w <;> rfl

@[simp] theorem core_setCore (w : Width) (s : State) (c : CoreState (params w)) : (s.setCore w c).core w = c := by
  cases w <;> rfl

theorem core_setCore_ne {w v : Width} (h : v ≠ w) (s : State) (c : CoreState (params w)) :
    (s.setCore w c).core v = s.core v := by
  cases w <;> cases v <;> first | rfl | exact absurd rfl h

@[simp] theorem setCore_setCore (w : Width) (s : State) (c d : CoreState (params w)) :
    (s.setCore w c).setCore w d = s.setCore w d := by
  cases w <;> rfl

@[simp] theorem setCore_core (w : Width) (s : State) : s.setCore w (s.core w) = s := by
  cases w <;> rfl

@[simp] theorem core_withHost (w : Width) (s : State) (h : List HostMove) :
    ({ s with host := h } : State).core w = s.core w := by
  cases w <;> rfl

@[simp] theorem withHost_setCore_core (w : Width) (s : State) (h : List HostMove) :
    ({ s with host := h } : State).setCore w (s.core w) = { s with host := h } := by
  cases w <;> rfl

theorem state_ext {s t : State} (h32 : s.core32 = t.core32) (h64 : s.core64 = t.core64) (hh : s.host = t.host) :
    s = t := by
  cases s; cases t; simp_all

@[simp] theorem respond_words (st : Status) (d : Word W) (c : CoreState p) : (respond st d c).words = c.words := rfl
@[simp] theorem respond_index (st : Status) (d : Word W) (c : CoreState p) : (respond st d c).index = c.index := rfl
@[simp] theorem respond_live (st : Status) (d : Word W) (c : CoreState p) : (respond st d c).live = c.live := rfl
@[simp] theorem respond_twists (st : Status) (d : Word W) (c : CoreState p) : (respond st d c).twists = c.twists := rfl
@[simp] theorem respond_rsp (st : Status) (d : Word W) (c : CoreState p) : (respond st d c).rsp = some ⟨st, d⟩ := rfl
@[simp] theorem respond_held (st : Status) (d : Word W) (c : CoreState p) : (respond st d c).held = c.held := rfl
@[simp] theorem respond_misuse (st : Status) (d : Word W) (c : CoreState p) : (respond st d c).misuse = c.misuse := rfl

@[simp] theorem raiseInvalidHandle_words (c : CoreState p) : (raiseInvalidHandle c).words = c.words := rfl
@[simp] theorem raiseInvalidHandle_index (c : CoreState p) : (raiseInvalidHandle c).index = c.index := rfl
@[simp] theorem raiseInvalidHandle_live (c : CoreState p) : (raiseInvalidHandle c).live = c.live := rfl
@[simp] theorem raiseInvalidHandle_twists (c : CoreState p) : (raiseInvalidHandle c).twists = c.twists := rfl
@[simp] theorem raiseInvalidHandle_rsp (c : CoreState p) :
    (raiseInvalidHandle c).rsp = some ⟨.invalidHandle, 0⟩ := rfl
@[simp] theorem raiseInvalidHandle_held (c : CoreState p) : (raiseInvalidHandle c).held = c.held := rfl
@[simp] theorem raiseInvalidHandle_misuse (c : CoreState p) : (raiseInvalidHandle c).misuse = true := rfl

@[simp] theorem seed_words (s : Word W) (c : CoreState p) : (seed s c).words = writeAll (seedExpand p s) := rfl
@[simp] theorem seed_index (s : Word W) (c : CoreState p) : (seed s c).index = some (BitVec.ofNat p.idxBits p.n) := rfl
@[simp] theorem seed_live (s : Word W) (c : CoreState p) : (seed s c).live = true := rfl
@[simp] theorem seed_twists (s : Word W) (c : CoreState p) : (seed s c).twists = 0 := rfl
@[simp] theorem seed_rsp (s : Word W) (c : CoreState p) : (seed s c).rsp = some ⟨.ok, 0⟩ := rfl
@[simp] theorem seed_held (s : Word W) (c : CoreState p) : (seed s c).held = c.held := rfl
@[simp] theorem seed_misuse (s : Word W) (c : CoreState p) : (seed s c).misuse = c.misuse := rfl

@[simp] theorem waitCore_words (c : CoreState p) (pins : Pins W) : (waitCore c pins).words = c.words := rfl
@[simp] theorem waitCore_index (c : CoreState p) (pins : Pins W) : (waitCore c pins).index = c.index := rfl
@[simp] theorem waitCore_live (c : CoreState p) (pins : Pins W) : (waitCore c pins).live = c.live := rfl
@[simp] theorem waitCore_twists (c : CoreState p) (pins : Pins W) : (waitCore c pins).twists = c.twists := rfl
@[simp] theorem waitCore_rsp (c : CoreState p) (pins : Pins W) : (waitCore c pins).rsp = c.rsp := rfl
@[simp] theorem waitCore_held (c : CoreState p) (pins : Pins W) : (waitCore c pins).held = presented pins := rfl
@[simp] theorem waitCore_misuse (c : CoreState p) (pins : Pins W) : (waitCore c pins).misuse = c.misuse := rfl

@[simp] theorem deliverCore_words (c : CoreState p) (pins : Pins W) : (deliverCore c pins).words = c.words := rfl
@[simp] theorem deliverCore_index (c : CoreState p) (pins : Pins W) : (deliverCore c pins).index = c.index := rfl
@[simp] theorem deliverCore_live (c : CoreState p) (pins : Pins W) : (deliverCore c pins).live = c.live := rfl
@[simp] theorem deliverCore_twists (c : CoreState p) (pins : Pins W) : (deliverCore c pins).twists = c.twists := rfl
@[simp] theorem deliverCore_rsp (c : CoreState p) (pins : Pins W) : (deliverCore c pins).rsp = none := rfl
@[simp] theorem deliverCore_held (c : CoreState p) (pins : Pins W) : (deliverCore c pins).held = presented pins := rfl
@[simp] theorem deliverCore_misuse (c : CoreState p) (pins : Pins W) : (deliverCore c pins).misuse = c.misuse := rfl

@[simp] theorem acceptCore_words (c : CoreState p) : (acceptCore c).words = c.words := rfl
@[simp] theorem acceptCore_index (c : CoreState p) : (acceptCore c).index = c.index := rfl
@[simp] theorem acceptCore_live (c : CoreState p) : (acceptCore c).live = c.live := rfl
@[simp] theorem acceptCore_twists (c : CoreState p) : (acceptCore c).twists = c.twists := rfl
@[simp] theorem acceptCore_rsp (c : CoreState p) : (acceptCore c).rsp = c.rsp := rfl
@[simp] theorem acceptCore_held (c : CoreState p) : (acceptCore c).held = none := rfl
@[simp] theorem acceptCore_misuse (c : CoreState p) : (acceptCore c).misuse = c.misuse := rfl

@[simp] theorem resetCore_words (c : CoreState p) (pins : Pins W) :
    (resetCore c pins).words = Storage.unwritten p := rfl
@[simp] theorem resetCore_index (c : CoreState p) (pins : Pins W) : (resetCore c pins).index = none := rfl
@[simp] theorem resetCore_live (c : CoreState p) (pins : Pins W) : (resetCore c pins).live = false := rfl
@[simp] theorem resetCore_twists (c : CoreState p) (pins : Pins W) : (resetCore c pins).twists = 0 := rfl
@[simp] theorem resetCore_rsp (c : CoreState p) (pins : Pins W) : (resetCore c pins).rsp = none := rfl
@[simp] theorem resetCore_held (c : CoreState p) (pins : Pins W) : (resetCore c pins).held = presented pins := rfl
@[simp] theorem resetCore_misuse (c : CoreState p) (pins : Pins W) : (resetCore c pins).misuse = c.misuse := rfl


end Sys2Proof.Machine
end

