-- ==== Sys2Proof/Laws/Ops.lean ====
section
/-! SUPPORT. Laws/Ops.lean: what the storage primitives, `onCore` and `react` can do, said once. -/

namespace Sys2Proof.Machine

variable {W : Nat} {p : Params W}

theorem readWord_eq_some_lt {ws : Storage p} {i : Nat} {v : Word W} (h : readWord ws i = some v) : i < p.n := by
  have h2 : ws.toList[i]? = some (some v) := Option.join_eq_some_iff.mp h
  have := (List.getElem?_eq_some_iff.mp h2).1
  simpa using this

@[simp] theorem readWord_unwritten (i : Nat) : readWord (Storage.unwritten p) i = none := by
  simp only [readWord, Storage.unwritten, Vector.toList_replicate, List.getElem?_replicate]
  split <;> rfl

/-- Read after write: the written position holds the value, every other position what it held. -/
theorem readWord_writeWord (ws : Storage p) (i j : Nat) (v : Word W) :
    readWord (writeWord ws i v) j = if i = j ∧ j < p.n then some v else readWord ws j := by
  have hl : ws.toList.length = p.n := by simp
  simp only [readWord, writeWord, Vector.toList, List.getElem?_set]
  have hl' : ws.toArray.toList.length = p.n := by simp
  by_cases h : i = j
  · subst h
    by_cases h2 : i < p.n
    · simp [h2]
    · simp [h2]
  · simp [h]

@[simp] theorem readWord_writeWord_same {ws : Storage p} {i : Nat} (h : i < p.n) (v : Word W) :
    readWord (writeWord ws i v) i = some v := by
  simp [readWord_writeWord, h]

theorem readWord_writeWord_ne {ws : Storage p} {i j : Nat} (h : i ≠ j) (v : Word W) :
    readWord (writeWord ws i v) j = readWord ws j := by
  simp [readWord_writeWord, h]

theorem readWord_writeAll (a : Vector (Word W) p.n) (i : Nat) : readWord (writeAll a) i = a[i]? := by
  simp only [readWord, writeAll, Vector.toList, List.getElem?_map]
  rw [← Vector.getElem?_toList]
  cases h : a.toArray.toList[i]? <;> simp [Vector.toList, h]

/-- A state array is determined by what its positions read as. -/
theorem storage_ext {a b : Storage p} (h : ∀ k, k < p.n → readWord a k = readWord b k) : a = b := by
  apply Vector.ext
  intro i hi
  have := h i hi
  simpa [readWord, hi] using this

/-- `onCore` answers a next state exactly where the command of the core does, and changes that core only. -/
theorem onCore_next_iff {w : Width} {f : CoreState (params w) → Host.Outcome (CoreState (params w)) Fault Refusal}
    {s t : State} : onCore w f s = .next t ↔ ∃ c, f (s.core w) = .next c ∧ t = s.setCore w c := by
  unfold onCore
  cases h : f (s.core w) with
  | next c => simp [eq_comm]
  | fault r => simp
  | refused r => simp

theorem onCore_fault_iff {w : Width} {f : CoreState (params w) → Host.Outcome (CoreState (params w)) Fault Refusal}
    {s : State} {r : Fault} : onCore w f s = .fault r ↔ f (s.core w) = .fault r := by
  unfold onCore
  cases h : f (s.core w) <;> simp

theorem onCore_refused_iff {w : Width} {f : CoreState (params w) → Host.Outcome (CoreState (params w)) Fault Refusal}
    {s : State} {r : Refusal} : onCore w f s = .refused r ↔ f (s.core w) = .refused r := by
  unfold onCore
  cases h : f (s.core w) <;> simp

/-- Everything a moment can be, with the inputs and the core's state that make it so. -/
theorem react_cases (c : CoreState p) (pins : Pins W) :
    (react c pins = .sharedPort ∧ pins.secondHost = true) ∨
    (pins.secondHost = false ∧
      ((react c pins = .commandChanged ∧ handshakeBroken c pins = true) ∨
       (handshakeBroken c pins = false ∧
        ((react c pins = .reset ∧ pins.rst = true) ∨
         (pins.rst = false ∧
          ((∃ r, c.rsp = some r ∧ pins.rspReady = true ∧
              ((react c pins = .deliver ∧ statusProduced r.status = true) ∨
               (react c pins = .foreignStatus ∧ statusProduced r.status = false))) ∨
           (react c pins = .wait ∧ ((∃ r, c.rsp = some r ∧ pins.rspReady = false) ∨
               (c.rsp = none ∧ pins.cmdValid = false))) ∨
           (react c pins = .accept pins.cmd ∧ c.rsp = none ∧ pins.cmdValid = true))))))) := by
  unfold react
  cases h1 : pins.secondHost <;> cases h2 : handshakeBroken c pins <;> cases h3 : pins.rst <;> simp
  cases h4 : c.rsp with
  | none => cases h5 : pins.cmdValid <;> simp
  | some r => cases h5 : pins.rspReady <;> cases h6 : statusProduced r.status <;> simp [h6]

/-- The host changed its command exactly if one is held and it does not present that one (70_reset_and_hazards R163). -/
theorem handshakeBroken_iff (c : CoreState p) (pins : Pins W) :
    handshakeBroken c pins = true ↔ ∃ cmd, c.held = some cmd ∧ ¬ (pins.cmdValid = true ∧ pins.cmd = cmd) := by
  unfold handshakeBroken presented
  cases h : c.held with
  | none => simp
  | some cmd => cases h2 : pins.cmdValid <;> simp [eq_comm (a := cmd)]

end Sys2Proof.Machine
end

