-- ==== Sys2Proof/Laws/Generate.lean ====
section
/-! SUPPORT. Laws/Generate.lean: the twist as a shift of a recurrent sequence, and everything a generate can answer. -/

namespace Sys2Proof.Machine

variable {W : Nat} {p : Params W}

theorem twistPass_succ (p : Params W) (k : Nat) (ws : Storage p) :
    twistPass p (k + 1) ws = (twistPass p k ws).bind (twistAt p k) := by
  simp only [twistPass]
  cases twistPass p k ws <;> rfl

/-- One iteration where the three words it reads are known. -/
theorem twistAt_eq {i : Nat} {ws : Storage p} {a b c : Word W} (ha : readWord ws i = some a)
    (hb : readWord ws ((i + 1) % p.n) = some b) (hc : readWord ws ((i + p.m) % p.n) = some c) :
    twistAt p i ws = some (writeWord ws i (twistWord p a b c)) := by
  simp [twistAt, ha, hb, hc]

/-- After `k` iterations the positions below `k` hold the sequence N places on, and the others what they held. -/
theorem twistPass_sequence {ws : Storage p} {x : Nat → Word W} (hm : 0 < p.m) (hmn : p.m < p.n)
    (h0 : ∀ k, k < p.n → readWord ws k = some (x k))
    (hx : ∀ j, x (j + p.n) = twistWord p (x j) (x (j + 1)) (x (j + p.m))) (k : Nat) (hk : k ≤ p.n) :
    ∃ ws', twistPass p k ws = some ws' ∧
      ∀ j, j < p.n → readWord ws' j = some (if j < k then x (p.n + j) else x j) := by
  induction k with
  | zero => exact ⟨ws, rfl, fun j hj => by simpa using h0 j hj⟩
  | succ k ih =>
    obtain ⟨v, hv, hr⟩ := ih (by omega)
    have ha : readWord v k = some (x k) := by
      rw [hr k (by omega)]
      simp
    have hb : readWord v ((k + 1) % p.n) = some (x (k + 1)) := by
      by_cases hlast : k + 1 = p.n
      · rw [hlast, Nat.mod_self, hr 0 (by omega)]
        by_cases hk0 : 0 < k
        · simp [hk0]
        · omega
      · rw [Nat.mod_eq_of_lt (by omega), hr (k + 1) (by omega)]
        simp
    have hc : readWord v ((k + p.m) % p.n) = some (x (k + p.m)) := by
      by_cases hwrap : k + p.m < p.n
      · rw [Nat.mod_eq_of_lt hwrap, hr _ hwrap]
        have : ¬ k + p.m < k := by omega
        simp [this]
      · have hmod : (k + p.m) % p.n = k + p.m - p.n := by
          rw [Nat.mod_eq_sub_mod (by omega), Nat.mod_eq_of_lt (by omega)]
        rw [hmod, hr _ (by omega)]
        have h1 : k + p.m - p.n < k := by omega
        have h2 : p.n + (k + p.m - p.n) = k + p.m := by omega
        simp [h1, h2]
    refine ⟨_, by rw [twistPass_succ, hv]; exact twistAt_eq ha hb hc, ?_⟩
    intro j hj
    rw [readWord_writeWord]
    by_cases hkj : k = j
    · subst hkj
      have : p.n + k = k + p.n := by omega
      simp [hj, this, hx k]
    · rw [if_neg (by simp [hkj]), hr j hj]
      have : j < k + 1 ↔ j < k := by omega
      simp [this]

/-- A twist of an array that holds the first N words of a sequence leaves the next N of it (41_generate R100, R101). -/
theorem twist_sequence {ws : Storage p} {x : Nat → Word W} (hm : 0 < p.m) (hmn : p.m < p.n)
    (h0 : ∀ k, k < p.n → readWord ws k = some (x k))
    (hx : ∀ j, x (j + p.n) = twistWord p (x j) (x (j + 1)) (x (j + p.m))) :
    ∃ ws', twist p ws = some ws' ∧ ∀ j, j < p.n → readWord ws' j = some (x (p.n + j)) := by
  obtain ⟨v, hv, hr⟩ := twistPass_sequence hm hmn h0 hx p.n le_rfl
  exact ⟨v, hv, fun j hj => by simpa [hj] using hr j hj⟩

/-- Any N words begin a sequence that goes on by the twist: the sequence itself. -/
def twistSequence (p : Params W) (old : Nat → Word W) (hm : 0 < p.m) (hmn : p.m < p.n) : Nat → Word W
  | j =>
    if _h : j < p.n then old j
    else twistWord p (twistSequence p old hm hmn (j - p.n)) (twistSequence p old hm hmn (j - p.n + 1))
      (twistSequence p old hm hmn (j - p.n + p.m))
  termination_by j => j
  decreasing_by all_goals omega

theorem twistSequence_lt (old : Nat → Word W) (hm : 0 < p.m) (hmn : p.m < p.n) {j : Nat} (h : j < p.n) :
    twistSequence p old hm hmn j = old j := by
  rw [twistSequence, dif_pos h]

theorem twistSequence_add (old : Nat → Word W) (hm : 0 < p.m) (hmn : p.m < p.n) (j : Nat) :
    twistSequence p old hm hmn (j + p.n) = twistWord p (twistSequence p old hm hmn j)
      (twistSequence p old hm hmn (j + 1)) (twistSequence p old hm hmn (j + p.m)) := by
  rw [twistSequence, dif_neg (by omega), Nat.add_sub_cancel]

/-- An array all of whose words hold a value can be twisted, and all its words hold a value afterwards. -/
theorem twist_written {ws : Storage p} (hm : 0 < p.m) (hmn : p.m < p.n)
    (h : ∀ k, k < p.n → ∃ v, readWord ws k = some v) :
    ∃ ws', twist p ws = some ws' ∧ ∀ k, k < p.n → ∃ v, readWord ws' k = some v := by
  have h0 : ∀ k, k < p.n → readWord ws k =
      some (twistSequence p (fun k => (readWord ws k).getD 0) hm hmn k) := by
    intro k hk
    obtain ⟨v, hv⟩ := h k hk
    rw [twistSequence_lt _ _ _ hk, hv]
    rfl
  obtain ⟨ws', h1, h2⟩ := twist_sequence hm hmn h0 (twistSequence_add _ hm hmn)
  exact ⟨ws', h1, fun k hk => ⟨_, h2 k hk⟩⟩

/-- Everything a generate can answer with a next state: the error, an extract, or a twist and an extract. -/
theorem generate_next {c d : CoreState p} (h : generate c = .next d) :
    (c.live = false ∧ d = raiseInvalidHandle c) ∨
    (c.live = true ∧ ∃ idx, c.index = some idx ∧ ¬ p.n < idx.toNat ∧ ∃ c' idx' y,
      ((idx.toNat ≠ p.n ∧ c' = c ∧ idx' = idx) ∨
       (idx.toNat = p.n ∧ idx' = 0 ∧ ∃ ws, twist p c.words = some ws ∧
          c' = { c with words := ws, index := some 0, twists := c.twists + 1 })) ∧
      readWord c'.words idx'.toNat = some y ∧
      d = respond .ok (temper p y) { c' with index := some (idx' + 1) }) := by
  unfold generate at h
  rcases Bool.eq_false_or_eq_true c.live with hl | hl
  case inr =>
    simp only [hl] at h
    exact .inl ⟨hl, (Host.Outcome.next.inj h).symm⟩
  case inl =>
    right
    simp only [hl, if_true] at h
    cases hi : c.index with
    | none => simp [hi] at h
    | some idx =>
      simp only [hi] at h
      split at h
      · cases h
      · rename_i hle
        refine ⟨hl, idx, rfl, hle, ?_⟩
        unfold twistIfStale at h
        by_cases hn : idx.toNat = p.n
        · simp only [hn, if_true] at h
          cases ht : twist p c.words with
          | none => simp [ht] at h
          | some ws =>
            simp only [ht, extract] at h
            split at h
            · cases h
            · rename_i y hy
              exact ⟨_, 0, y, .inr ⟨hn, rfl, ws, rfl, rfl⟩, hy, (Host.Outcome.next.inj h).symm⟩
        · simp only [hn, if_false, extract, hi] at h
          split at h
          · cases h
          · rename_i y hy
            exact ⟨c, idx, y, .inl ⟨hn, rfl, rfl⟩, hy, (Host.Outcome.next.inj h).symm⟩

/-- A generate of a core that is not live is the error (60_exceptions R141). -/
theorem generate_dead {c : CoreState p} (h : c.live = false) : generate c = .next (raiseInvalidHandle c) := by
  simp [generate, h]

/-- A generate below N reads the word at the index (41_generate R106). -/
theorem generate_fresh {c : CoreState p} {idx : BitVec p.idxBits} {y : Word W} (hl : c.live = true)
    (hi : c.index = some idx) (hlt : idx.toNat < p.n) (hy : readWord c.words idx.toNat = some y) :
    generate c = .next (respond .ok (temper p y) { c with index := some (idx + 1) }) := by
  have h1 : ¬ p.n < idx.toNat := by omega
  have h2 : idx.toNat ≠ p.n := by omega
  simp [generate, hl, hi, h1, h2, twistIfStale, extract, hy]

/-- A generate at N twists first (41_generate R106). -/
theorem generate_stale {c : CoreState p} {idx : BitVec p.idxBits} {ws : Storage p} {y : Word W} (hl : c.live = true)
    (hi : c.index = some idx) (hn : idx.toNat = p.n) (ht : twist p c.words = some ws) (hy : readWord ws 0 = some y) :
    generate c = .next (respond .ok (temper p y)
      { c with words := ws, index := some (0 + 1), twists := c.twists + 1 }) := by
  simp [generate, hl, hi, hn, twistIfStale, ht, extract, hy]

/-- A generate never refuses. -/
theorem generate_not_refused (c : CoreState p) (r : Refusal) : generate c ≠ .refused r := by
  unfold generate
  split
  · split
    · simp
    · split
      · simp
      · split
        · simp
        · unfold extract
          split
          · simp
          · split <;> simp
  · simp

end Sys2Proof.Machine
end

