-- ==== Sys2Proof/Laws/Seeding.lean ====
section
/-! SUPPORT. Laws/Seeding.lean: the words of SeedExpand and of a seeded core. -/

namespace Sys2Proof.Machine

variable {W : Nat} {p : Params W}

/-- The list of seeding words read at a position: its first word, or the rest of the list started one position on. -/
theorem seedList_getElem?_succ (p : Params W) (count i k : Nat) (x : Word W) :
    (seedList p (count + 1) i x)[k + 1]? = (seedList p count (i + 1) (seedNext p x i))[k]? := rfl

/-- Each seeding word comes from the word before it by `seedNext`. -/
theorem seedList_step (p : Params W) (count i k : Nat) (x : Word W) (h : k + 1 < count) :
    ∃ y, (seedList p count i x)[k]? = some y ∧ (seedList p count i x)[k + 1]? = some (seedNext p y (i + k)) := by
  induction k generalizing count i x with
  | zero =>
    obtain ⟨c, rfl⟩ : ∃ c, count = c + 2 := ⟨count - 2, by omega⟩
    exact ⟨x, rfl, rfl⟩
  | succ k ih =>
    obtain ⟨c, rfl⟩ : ∃ c, count = c + 1 := ⟨count - 1, by omega⟩
    obtain ⟨y, h1, h2⟩ := ih c (i + 1) (seedNext p x i) (by omega)
    refine ⟨y, h1, ?_⟩
    rw [seedList_getElem?_succ, h2]
    congr 2
    omega

/-- Word 0 of SeedExpand is the seed (40_seeding R80). -/
theorem seedExpand_zero (p : Params W) (s : Word W) (h : 0 < p.n) : (seedExpand p s)[0]? = some s := by
  rw [← Vector.getElem?_toList]
  show (seedList p p.n 1 s)[0]? = some s
  obtain ⟨c, hc⟩ : ∃ c, p.n = c + 1 := ⟨p.n - 1, by omega⟩
  rw [hc]
  rfl

/-- Every later word of SeedExpand from the word before it (40_seeding R80). -/
theorem seedExpand_step (p : Params W) (s : Word W) (k : Nat) (h : k + 1 < p.n) :
    ∃ y, (seedExpand p s)[k]? = some y ∧ (seedExpand p s)[k + 1]? = some (seedNext p y (k + 1)) := by
  simp only [← Vector.getElem?_toList]
  show ∃ y, (seedList p p.n 1 s)[k]? = some y ∧ (seedList p p.n 1 s)[k + 1]? = some (seedNext p y (k + 1))
  have := seedList_step p p.n 1 k s h
  rwa [Nat.add_comm 1 k] at this

/-- The words of SeedExpand are any function that starts with the seed and steps by `seedNext`. -/
theorem seedExpand_eq (p : Params W) (s : Word W) (x : Nat → Word W) (h0 : x 0 = s)
    (hs : ∀ k, k + 1 < p.n → x (k + 1) = seedNext p (x k) (k + 1)) (k : Nat) (hk : k < p.n) :
    (seedExpand p s)[k]? = some (x k) := by
  induction k with
  | zero => rw [seedExpand_zero p s hk, h0]
  | succ k ih =>
    obtain ⟨y, h1, h2⟩ := seedExpand_step p s k hk
    have hy : y = x k := by
      have := ih (by omega)
      rw [h1] at this
      exact Option.some.inj this
    rw [h2, hy, hs k hk]

end Sys2Proof.Machine
end

