-- ==== Sys2Proof/Laws/Exec.lean ====
section
/-! SUPPORT. Laws/Exec.lean: what exec is, once for both widths, and what it never touches. -/

namespace Sys2Proof.Machine

theorem exec_defaultOf (w : Width) (s : State) :
    exec (Instr.defaultOf w) s = .next (s.setCore w (seed (params w).defaultSeed (s.core w))) := by
  cases w <;> rfl

theorem exec_createOf (w : Width) (x : Word w.bits) (s : State) :
    exec (Instr.createOf w x) s = .next (s.setCore w (seed x (s.core w))) := by
  cases w <;> rfl

theorem exec_generateOf (w : Width) (s : State) : exec (Instr.generateOf w) s = onCore w generate s := by
  cases w <;> rfl

theorem exec_releaseOf (w : Width) (s : State) :
    exec (Instr.releaseOf w) s = .next (s.setCore w (release (s.core w))) := by
  cases w <;> rfl

/-- Every command is one of the four of its width. -/
theorem instr_cases (i : Instr) :
    i = Instr.defaultOf i.width ∨ (∃ x, i = Instr.createOf i.width x) ∨ i = Instr.generateOf i.width ∨
      i = Instr.releaseOf i.width := by
  cases i <;> simp [Instr.width]

/-- What a command does to its own core. -/
def coreMeaning (i : Instr) (c : CoreState (params i.width)) :
    Host.Outcome (CoreState (params i.width)) Fault Refusal :=
  match i, c with
  | .default32, c => .next (seed (params .w32).defaultSeed c)
  | .create32 x, c => .next (seed x c)
  | .generate32, c => generate c
  | .release32, c => .next (release c)
  | .default64, c => .next (seed (params .w64).defaultSeed c)
  | .create64 x, c => .next (seed x c)
  | .generate64, c => generate c
  | .release64, c => .next (release c)

/-- A command acts on the core of its width and on nothing else. -/
theorem exec_eq_onCore (i : Instr) (s : State) : exec i s = onCore i.width (coreMeaning i) s := by
  cases i <;> rfl

/-- Everything exec can answer with a next state. -/
theorem exec_next {i : Instr} {s t : State} (h : exec i s = .next t) :
    ∃ c, coreMeaning i (s.core i.width) = .next c ∧ t = s.setCore i.width c := by
  rw [exec_eq_onCore] at h
  exact onCore_next_iff.mp h

/-- A command of one core leaves the other core as it was (60_exceptions R150). -/
theorem exec_other_core {i : Instr} {s t : State} (h : exec i s = .next t) {w : Width} (hw : w ≠ i.width) :
    t.core w = s.core w := by
  obtain ⟨c, -, rfl⟩ := exec_next h
  exact core_setCore_ne hw s c

/-- No command reads or changes the host's moves. -/
theorem exec_host {i : Instr} {s t : State} (h : exec i s = .next t) : t.host = s.host := by
  obtain ⟨c, -, rfl⟩ := exec_next h
  exact setCore_host _ _ _

/-- A command does the same whatever moves the host has to come. -/
theorem exec_withHost {i : Instr} {s t : State} {h : List HostMove} (he : exec i s = .next t) :
    exec i { s with host := h } = .next { t with host := h } := by
  obtain ⟨c, hc, rfl⟩ := exec_next he
  rw [exec_eq_onCore, onCore_next_iff]
  refine ⟨c, by simpa using hc, ?_⟩
  cases i <;> rfl

/-- A statement about the commands of a width holds of a command if it holds of the four of that width. -/
theorem instr_width_cases (P : Width → Instr → Prop) (hd : ∀ w, P w (Instr.defaultOf w))
    (hc : ∀ w x, P w (Instr.createOf w x)) (hg : ∀ w, P w (Instr.generateOf w)) (hr : ∀ w, P w (Instr.releaseOf w))
    (i : Instr) : P i.width i := by
  cases i
  · exact hd .w32
  · exact hc .w32 _
  · exact hg .w32
  · exact hr .w32
  · exact hd .w64
  · exact hc .w64 _
  · exact hg .w64
  · exact hr .w64

/-- No command is refused. -/
theorem exec_not_refused (i : Instr) (s : State) (r : Refusal) : exec i s ≠ .refused r := by
  intro h
  rw [exec_eq_onCore, onCore_refused_iff] at h
  cases i <;> first
    | exact generate_not_refused _ r h
    | cases h

/-- A release of a live core (42_release R130). -/
theorem release_live {W : Nat} {p : Params W} {c : CoreState p} (h : c.live = true) :
    release c = respond .ok 0 { c with live := false, words := Storage.unwritten p, index := none } := by
  simp [release, h]

/-- A release of a core that is not live is the error (60_exceptions R141). -/
theorem release_dead {W : Nat} {p : Params W} {c : CoreState p} (h : c.live = false) :
    release c = raiseInvalidHandle c := by
  simp [release, h]

end Sys2Proof.Machine
end

