-- ==== Sys2Proof/Laws/PerInstr.lean ====
section
/-! SUPPORT. Laws/PerInstr.lean: per-instruction statements about the encoding of each command. -/

namespace Sys2Proof.Laws

/-- The seed field of a presented command is zero. -/
def seedFieldZero : Presented → Bool
  | .on32 cmd => cmd.seed == 0
  | .on64 cmd => cmd.seed == 0

/-- The opcode field of a presented command. -/
def opField : Presented → BitVec 2
  | .on32 cmd => cmd.op
  | .on64 cmd => cmd.op

/-- The width of the port a command is presented on. -/
def portWidth : Presented → Width
  | .on32 _ => .w32
  | .on64 _ => .w64

/-- The encoding of a command stands on the port of its width, has its opcode, fits its packed word, and has a zero seed
field unless the command is a create (30_encoding R60, R62). -/
def EncodingFields.Statement (i : Instr) : Prop :=
  portWidth (encode i) = i.width ∧ opField (encode i) = i.opcode ∧ encodeWord i < 2 ^ i.wordBits ∧
    (i.opcode ≠ 0b01#2 → seedFieldZero (encode i) = true)

theorem EncodingFields.default32 : EncodingFields.Statement .default32 := by
  unfold EncodingFields.Statement; decide

theorem EncodingFields.create32 (seed : BitVec 32) : EncodingFields.Statement (.create32 seed) :=
  ⟨rfl, rfl, BitVec.isLt _, fun h => absurd rfl h⟩

theorem EncodingFields.generate32 : EncodingFields.Statement .generate32 := by
  unfold EncodingFields.Statement; decide

theorem EncodingFields.release32 : EncodingFields.Statement .release32 := by
  unfold EncodingFields.Statement; decide

theorem EncodingFields.default64 : EncodingFields.Statement .default64 := by
  unfold EncodingFields.Statement; decide

theorem EncodingFields.create64 (seed : BitVec 64) : EncodingFields.Statement (.create64 seed) :=
  ⟨rfl, rfl, BitVec.isLt _, fun h => absurd rfl h⟩

theorem EncodingFields.generate64 : EncodingFields.Statement .generate64 := by
  unfold EncodingFields.Statement; decide

theorem EncodingFields.release64 : EncodingFields.Statement .release64 := by
  unfold EncodingFields.Statement; decide

end Sys2Proof.Laws
end

