-- ==== Sys2Proof/Laws/Step.lean ====
section
/-! SUPPORT. Laws/Step.lean: everything one step can do. -/

namespace Sys2Proof.Machine

/-- A step with no host move holds the state (60_exceptions R152). -/
theorem step_idle {s : State} (h : s.host = []) : step s = .next s := by
  simp [step, h]

/-- A step with a host move is a moment on that core's ports. -/
theorem step_move {s : State} {w : Width} {pins : Pins w.bits} {rest : List HostMove}
    (h : s.host = moveOn w pins :: rest) : step s = moment w pins { s with host := rest } := by
  cases w <;> simp [step, h, moveOn]

/-- Every state is idle or has a next move of the host. -/
theorem host_cases (s : State) : s.host = [] ∨ ∃ w pins rest, s.host = moveOn w pins :: rest := by
  rcases h : s.host with _ | ⟨m, rest⟩
  · exact .inl rfl
  · cases m with
    | on32 pins => exact .inr ⟨.w32, pins, rest, rfl⟩
    | on64 pins => exact .inr ⟨.w64, pins, rest, rfl⟩

theorem decode_presentedOn (w : Width) (cmd : Cmd w.bits) : decode (presentedOn w cmd) = decodeCmd w cmd := by
  cases w <;> rfl

theorem decodeCmd_width (w : Width) (cmd : Cmd w.bits) : (decodeCmd w cmd).width = w := by
  unfold decodeCmd
  cases w <;> (split <;> [rfl; (split <;> [rfl; (split <;> rfl)])])

/-- A moment in which a command is accepted is that command's exec. -/
theorem moment_accept {w : Width} {pins : Pins w.bits} {s : State} (h1 : pins.secondHost = false)
    (h2 : pins.rst = false) (h3 : handshakeBroken (s.core w) pins = false) (h4 : (s.core w).rsp = none)
    (h5 : pins.cmdValid = true) :
    moment w pins s = exec (decodeCmd w pins.cmd) (s.setCore w (acceptCore (s.core w))) := by
  simp [moment, react, h1, h2, h3, h4, h5, decode_presentedOn]

/-- Everything a moment can answer with a next state. -/
theorem moment_next {w : Width} {pins : Pins w.bits} {s t : State} (h : moment w pins s = .next t) :
    (t = s.setCore w (resetCore (s.core w) pins) ∧ pins.rst = true) ∨
    (t = s.setCore w (deliverCore (s.core w) pins) ∧ pins.rst = false ∧ (s.core w).rsp.isSome = true ∧
      pins.rspReady = true) ∨
    (t = s.setCore w (waitCore (s.core w) pins) ∧ pins.rst = false) ∨
    (exec (decodeCmd w pins.cmd) (s.setCore w (acceptCore (s.core w))) = .next t ∧ pins.rst = false ∧
      (s.core w).rsp = none ∧ pins.cmdValid = true) := by
  unfold moment at h
  rcases react_cases (s.core w) pins with ⟨hr, -⟩ | ⟨-, ⟨hr, -⟩ | ⟨-, ⟨hr, h2⟩ |
      ⟨h2, ⟨r, hrsp, hrdy, ⟨hr, -⟩ | ⟨hr, -⟩⟩ | ⟨hr, -⟩ | ⟨hr, hn, hv⟩⟩⟩⟩ <;> simp only [hr] at h
  · cases h
  · cases h
  · exact .inl ⟨(Host.Outcome.next.inj h).symm, h2⟩
  · exact .inr (.inl ⟨(Host.Outcome.next.inj h).symm, h2, by simp [hrsp], hrdy⟩)
  · cases h
  · exact .inr (.inr (.inl ⟨(Host.Outcome.next.inj h).symm, h2⟩))
  · exact .inr (.inr (.inr ⟨by rwa [decode_presentedOn] at h, h2, hn, hv⟩))

end Sys2Proof.Machine
end

