-- ==== Sys2Proof/Laws/Safety.lean ====
section
/-! SUPPORT. Laws/Safety.lean: the facts about the two parameter sets that the proofs rest on, the index register as a
number, and the invariant of the states commands make. -/

namespace Sys2Proof.Machine

variable {W : Nat} {p : Params W}

/-- What the proofs need of a parameter set: 0 < M < N, at least two words, and an index register that holds N + 1. -/
structure ParamsFit (p : Params W) : Prop where
  offsetPos : 0 < p.m
  offsetLt : p.m < p.n
  twoWords : 2 ≤ p.n
  indexWide : p.n + 1 < 2 ^ p.idxBits

theorem params_fit (w : Width) : ParamsFit (params w) := by
  cases w <;> exact ⟨by decide, by decide, by decide, by decide⟩

/-- The index register holds N. -/
theorem toNat_ofNat_n (hp : ParamsFit p) : (BitVec.ofNat p.idxBits p.n).toNat = p.n := by
  rw [BitVec.toNat_ofNat]
  exact Nat.mod_eq_of_lt (by have := hp.indexWide; omega)

/-- Incrementing the index register of a core below or at N does not wrap. -/
theorem toNat_index_succ (hp : ParamsFit p) {idx : BitVec p.idxBits} (h : idx.toNat ≤ p.n) :
    (idx + 1).toNat = idx.toNat + 1 := by
  have hw := hp.indexWide
  have h1 : (1 : BitVec p.idxBits).toNat = 1 := by
    have : 1 < 2 ^ p.idxBits := by omega
    simp [Nat.mod_eq_of_lt this]
  rw [BitVec.toNat_add, h1, Nat.mod_eq_of_lt (by omega)]

theorem indexValue_eq_some {c : CoreState p} {i : Nat} (h : indexValue c = some i) :
    ∃ idx, c.index = some idx ∧ idx.toNat = i := by
  unfold indexValue at h
  cases hc : c.index <;> simp [hc] at h
  exact ⟨_, rfl, h⟩

theorem seed_indexValue (hp : ParamsFit p) (s : Word W) (c : CoreState p) : indexValue (seed s c) = some p.n := by
  simp only [indexValue, seed_index, Option.map_some, toNat_ofNat_n hp]

/-- A core after a seeding command meets the invariant. -/
theorem seed_inv (hp : ParamsFit p) (s : Word W) (c : CoreState p) : (seed s c).Inv where
  liveIndex _ := ⟨p.n, seed_indexValue hp s c, by have := hp.twoWords; omega, le_rfl⟩
  liveWords _ k hk := by simp [readWord_writeAll, hk]
  deadIndex h := by simp at h
  deadWords h := by simp at h
  response r hr := by
    simp at hr
    subst hr
    exact .inl rfl

/-- The state after reset of one core meets the invariant. -/
theorem coreReset_inv : (CoreState.reset p).Inv := by
  constructor <;> simp [CoreState.reset]

/-- A core after a moment of reset meets the invariant, whatever the ghost has recorded and the host presents. -/
theorem resetCore_inv (c : CoreState p) (pins : Pins W) : (resetCore c pins).Inv := by
  constructor <;> simp

/-- The invariant of the machine is that of each core. -/
theorem inv_iff (s : State) : s.Inv ↔ ∀ w, (s.core w).Inv :=
  ⟨fun h w => by cases w <;> [exact h.core32; exact h.core64], fun h => ⟨h .w32, h .w64⟩⟩

/-- A transaction whose command answers a next state with a response on its port. -/
theorem transact_eq {i : Instr} {w : Width} (hw : i.width = w) {s t : State} {r : Response w.bits}
    (h : exec i s = .next t) (hr : (t.core w).rsp = some r) :
    transact i s = some (replyOf w r, takeResponse w t) := by
  subst hw
  simp [transact, h, hr]

/-- A session split in two. -/
theorem session_append (is js : List Instr) (s : State) :
    session (is ++ js) s =
      (session is s).bind fun x => (session js x.2).map fun y => (x.1 ++ y.1, y.2) := by
  induction is generalizing s with
  | nil => simp [session]
  | cons i is ih =>
    simp only [List.cons_append, session]
    cases transact i s with
    | none => rfl
    | some a =>
      simp only [ih]
      cases session is a.2 with
      | none => rfl
      | some b =>
        simp only [Option.bind_some]
        cases session js b.2 <;> rfl

end Sys2Proof.Machine
end

