-- ==== Sys2Proof/Laws/Session.lean ====
section
/-! SUPPORT. Laws/Session.lean: the small laws of runs of several steps and of the host's moves for a list of commands. -/

namespace Sys2Proof.Machine

@[simp] theorem replyOf_width (w : Width) (r : Response w.bits) : (replyOf w r).width = w := by cases w <;> rfl

@[simp] theorem programMoves_nil : programMoves [] = [] := rfl

@[simp] theorem programMoves_cons (i : Instr) (is : List Instr) :
    programMoves (i :: is) = transactionMoves i ++ programMoves is := rfl

theorem programMoves_append (is js : List Instr) : programMoves (is ++ js) = programMoves is ++ programMoves js := by
  induction is with
  | nil => rfl
  | cons i is ih => simp [ih]

/-- The moves of a command in terms of its width: present a command that decodes to it, then take. -/
theorem transactionMoves_eq (i : Instr) : ∃ cmd : Cmd i.width.bits, decodeCmd i.width cmd = i ∧
    transactionMoves i = [moveOn i.width (presentPins cmd), moveOn i.width (takePins i.width.bits)] := by
  cases i <;> exact ⟨⟨_, _⟩, rfl, rfl⟩

@[simp] theorem run_zero (s : State) : run 0 s = some ([], s) := rfl

theorem run_succ {s t : State} (h : step s = .next t) (k : Nat) :
    run (k + 1) s = (run k t).map fun x => ((delivered s).toList ++ x.1, x.2) := by
  simp only [run, h]
  cases run k t <;> rfl

/-- A run split in two. -/
theorem run_add (j k : Nat) (s : State) :
    run (j + k) s = (run j s).bind fun x => (run k x.2).map fun y => (x.1 ++ y.1, y.2) := by
  induction j generalizing s with
  | zero => simp
  | succ j ih =>
    rw [Nat.succ_add]
    cases h : step s with
    | fault f => simp [run, h]
    | refused r => simp [run, h]
    | next t =>
      rw [run_succ h, run_succ h, ih]
      cases run j t with
      | none => rfl
      | some a =>
        simp only [Option.bind_some, Option.map_some]
        cases run k a.2 <;> simp

/-- Delivery, where the next move is on the ports of the core of width `w`. -/
theorem delivered_move {s : State} {w : Width} {pins : Pins w.bits} {rest : List HostMove}
    (h : s.host = moveOn w pins :: rest) : delivered s = deliveredOn w pins s := by
  cases w <;> simp [delivered, h, moveOn]

/-- A presented command that is accepted delivers nothing. -/
theorem deliveredOn_none {s : State} {w : Width} {pins : Pins w.bits} (h : (s.core w).rsp = none) :
    deliveredOn w pins s = none := by
  unfold deliveredOn
  split <;> simp [h]

end Sys2Proof.Machine
end

