-- ==== Sys2Proof/Tests/Slice0.lean ====
section
/-! SUPPORT. Tests/Slice0.lean: tests with expected values from spec/95_test_vectors.md and the rules, and the smoke test of
WellFormed. The witnesses of the obligations are in Tests/Witnesses.lean. -/

namespace Sys2Proof.Tests

open Sys2Proof Sys2Proof.Machine

set_option maxRecDepth 20000

/-! ### WellFormed (30_encoding R62, R67, R68) -/

theorem test_smoke_illFormed :
    Instr.wellFormed .w32 (.create64 5) = false ∧ Instr.wellFormed .w64 .release32 = false ∧
    (Line.defaultW .w64).wellFormed .w32 = false ∧ (Line.createW .w32 (some (2 ^ 32))).wellFormed .w32 = false ∧
    (Line.generateW .w32 0).wellFormed .w32 = false := by decide

theorem test_smoke_wellFormed :
    Instr.wellFormed .w32 (.create32 5) = true ∧ (Line.createW .w32 (some (2 ^ 32 - 1))).wellFormed .w32 = true ∧
    (Line.createW .w64 (some (2 ^ 64 - 1))).wellFormed .w64 = true ∧ (Line.generateW .w64 1).wellFormed .w64 = true ∧
    Line.blank.wellFormed .w32 = true := by decide

/-! ### Decoding, words written out from R60 and R62: seed in bits [W+1:2], op in bits [1:0] -/

theorem test_decode_default32 : decodeTableWord 34 0b0000000000000000000000000000000000 = some .default32 := by decide
theorem test_decode_create32 :
    decodeTableWord 34 0b1000000000000000000000000000000101 = some (.create32 0x80000001) := by decide
theorem test_decode_generate32 : decodeTableWord 34 0b0000000000000000000000000000000010 = some .generate32 := by decide
theorem test_decode_release32_ignores_seed :
    decodeTableWord 34 0b1111111111111111111111111111111111 = some .release32 := by decide
theorem test_decode_default64 : decodeTableWord 66 0 = some .default64 := by decide
theorem test_decode_create64 :
    decodeTableWord 66 0b100000000000000000000000000000000000000000000000000000000000000101 =
      some (.create64 0x8000000000000001) := by decide
theorem test_decode_generate64 : decodeTableWord 72 0b10 = some .generate64 := by decide
theorem test_decode_release64 : decodeTableWord 72 0b11 = some .release64 := by decide
/-- 95 P1 row 1, P5 row 3. -/
theorem test_encode_listings : encodeWord (.create32 5489) = 0x0000055C5 ∧ encodeWord .generate32 = 2 ∧
    encodeWord (.create64 0) = 1 ∧ encodeWord .release64 = 3 := by decide
theorem test_decode_tooWide : decodeTableWord 34 (2 ^ 34) = none ∧ decodeTableWord 66 (2 ^ 66) = none := by decide
/-- 95 P1 rows 2, 3 and §3: packed responses. -/
theorem test_packed_responses :
    packResponse (W := 32) ⟨.ok, 3499211612⟩ = 0x34246ED70#34 ∧ packResponse (W := 32) ⟨.ok, 581869302⟩ = 0x08ABA7BD8#34 ∧
    packResponse (W := 64) ⟨.ok, 14514284786278117030⟩ = 0x325B46473DBDABA98#66 ∧
    packResponse (W := 32) ⟨.invalidHandle, 0⟩ = 1#34 := by decide

/-! ### Temper and twist words (95 §4) -/

theorem test_temper32 :
    temper (params .w32) 0x00000001 = 0x00400091#32 ∧ temper (params .w32) 0x80000000 = 0x88102204#32 ∧
    temper (params .w32) 0xFFFFFFFF = 0x6FE01BF8#32 ∧ temper (params .w32) 0x12345678 = 0x2B7E4A2D#32 ∧
    temper (params .w32) 0x00000800 = 0x04440990#32 ∧ temper (params .w32) 0x9B0AFA27 = 3499211612#32 := by decide
theorem test_temper64 :
    temper (params .w64) 0x0000000000000001 = 0x0040002000020801#64 ∧
    temper (params .w64) 0x8000000000000000 = 0x8000000400100000#64 ∧
    temper (params .w64) 0xFFFFFFFFFFFFFFFF = 0x7BFEEEEFEFA1D577#64 ∧
    temper (params .w64) 0x0123456789ABCDEF = 0x2254DA7001198660#64 := by decide
theorem test_twistWord32 :
    twistWord (params .w32) 0 1 0 = 0x9908B0DF#32 ∧ twistWord (params .w32) 0xFFFFFFFF 0 0 = 0x40000000#32 ∧
    twistWord (params .w32) 0xFFFFFFFF 0xFFFFFFFF 0xFFFFFFFF = 0x1908B0DF#32 ∧
    twistWord (params .w32) 0x80000000 2 5 = 0x40000004#32 := by decide
theorem test_twistWord64 :
    twistWord (params .w64) 0 1 0 = 0xB5026F5AA96619E9#64 ∧
    twistWord (params .w64) 0xFFFFFFFFFFFFFFFF 0 0 = 0x7FFFFFFFC0000000#64 ∧
    twistWord (params .w64) 0xFFFFFFFFFFFFFFFF 0xFFFFFFFFFFFFFFFF 0xFFFFFFFFFFFFFFFF = 0x35026F5AA96619E9#64 ∧
    twistWord (params .w64) 0x8000000000000000 2 5 = 0x4000000000000004#64 := by decide

/-! ### Seeding commands (95 §2), from the state after reset -/

/-- The core of width `w` after one command from reset, where the command answers a next state. -/
def coreAfter (w : Width) (i : Instr) : Option (CoreState (params w)) :=
  match exec i State.reset with
  | .next t => some (t.core w)
  | .fault _ => none
  | .refused _ => none

/-- The word at a position of that core. -/
def wordAfter (w : Width) (i : Instr) (k : Nat) : Option (Word w.bits) := (coreAfter w i).bind fun c => readWord c.words k

theorem test_create32_words :
    wordAfter .w32 (.create32 5489) 0 = some 0x00001571#32 ∧ wordAfter .w32 (.create32 5489) 1 = some 0x4D98EE96#32 ∧
    wordAfter .w32 (.create32 5489) 2 = some 0xAF25F095#32 ∧ wordAfter .w32 (.create32 5489) 623 = some 0x04C46D8C#32 ∧
    wordAfter .w32 (.create32 0xFFFFFFFF) 1 = some 0x4FE1DA6D#32 := by decide +kernel
theorem test_create32_registers :
    (coreAfter .w32 (.create32 5489)).map (fun c => (indexValue c, c.live, c.twists, c.rsp, logical c)) =
      some (some 624, true, 0, some ⟨.ok, 0⟩, some .exhausted) := by decide +kernel
theorem test_default32_words :
    wordAfter .w32 .default32 0 = some 5489#32 ∧ wordAfter .w32 .default32 623 = some 0x04C46D8C#32 := by decide +kernel
theorem test_create64_words :
    wordAfter .w64 (.create64 5489) 1 = some 0xB5347F47116BD3DE#64 ∧
    wordAfter .w64 (.create64 5489) 311 = some 0xC65AE95C45A5D796#64 ∧
    wordAfter .w64 (.create64 0) 2 = some 0x5851F42D4C957F2F#64 ∧
    wordAfter .w64 (.create64 0xFFFFFFFFFFFFFFFF) 311 = some 0xE6AEB038BE6A9DE7#64 := by decide +kernel
theorem test_create64_registers :
    (coreAfter .w64 (.create64 5489)).map (fun c => (indexValue c, c.live, c.twists, c.rsp, logical c)) =
      some (some 312, true, 0, some ⟨.ok, 0⟩, some .exhausted) := by decide +kernel
theorem test_default64_words :
    wordAfter .w64 .default64 0 = some 5489#64 ∧ wordAfter .w64 .default64 311 = some 0xC65AE95C45A5D796#64 := by
  decide +kernel

/-! ### Generate (95 §3, §4): the array a seed makes, followed as a sequence -/

/-- The word at a position of the array SeedExpand makes of `s`. -/
def seedWord (w : Width) (s : Word w.bits) (k : Nat) : Word w.bits := (seedExpand (params w) s)[k]?.getD 0

/-- The sequence that goes on from SeedExpand's words by the twist. -/
def raw (w : Width) (s : Word w.bits) : Nat → Word w.bits :=
  twistSequence (params w) (seedWord w s) (params_fit w).offsetPos (params_fit w).offsetLt

theorem raw_lt (w : Width) (s : Word w.bits) {k : Nat} (h : k < (params w).n) : raw w s k = seedWord w s k :=
  twistSequence_lt _ _ _ h

theorem raw_add (w : Width) (s : Word w.bits) (j : Nat) :
    raw w s (j + (params w).n) = twistWord (params w) (raw w s j) (raw w s (j + 1)) (raw w s (j + (params w).m)) :=
  twistSequence_add _ _ _ j

/-- The machine after `create_W s` from reset. -/
def created (w : Width) (s : Word w.bits) : State := State.reset.setCore w (seed s (State.reset.core w))

theorem created_word (w : Width) (s : Word w.bits) {k : Nat} (hk : k < (params w).n) :
    readWord ((created w s).core w).words k = some (raw w s k) := by
  simp [created, readWord_writeAll, raw_lt w s hk, seedWord, hk]

/-- The first generate of a created core, in terms of the raw sequence. -/
theorem created_generate (w : Width) (s : Word w.bits) : ∃ t, exec (Instr.generateOf w) (created w s) = .next t ∧
    (t.core w).rsp = some ⟨.ok, temper (params w) (raw w s (params w).n)⟩ ∧
    (t.core w).index = some (0 + 1) ∧ (t.core w).twists = 1 ∧
    ∀ k, k < (params w).n → readWord (t.core w).words k = some (raw w s ((params w).n + k)) := by
  have hp := params_fit w
  obtain ⟨ws, h1, h2⟩ := twist_sequence hp.offsetPos hp.offsetLt (ws := ((created w s).core w).words)
    (fun k hk => created_word w s hk) (raw_add w s)
  have h0 := h2 0 (by have := hp.twoWords; omega)
  have hg := generate_stale (c := (created w s).core w) (by simp [created]) (by simp [created]) (toNat_ofNat_n hp) h1 h0
  refine ⟨_, (exec_generateOf w _).trans (onCore_next_iff.mpr ⟨_, hg, rfl⟩), by simp, by simp, by simp [created], ?_⟩
  simpa using h2

/-- 95 §3, W = 32, seed 5489: output 1, and the state words [0], [226], [227], [622], [623] of §4, the last three of which
a twist of pre-twist values gets wrong (C2). -/
theorem test_raw32 :
    raw .w32 5489 624 = 0x9B0AFA27#32 ∧ raw .w32 5489 (624 + 226) = 0xD0E85F4D#32 ∧
    raw .w32 5489 (624 + 227) = 0x53E4F8A7#32 ∧ raw .w32 5489 (624 + 623) = 0xD1B102B7#32 := by
  have e : ∀ j, raw .w32 5489 (j + 624) =
      twistWord (params .w32) (raw .w32 5489 j) (raw .w32 5489 (j + 1)) (raw .w32 5489 (j + 397)) := raw_add .w32 5489
  have l : ∀ k, k < 624 → raw .w32 5489 k = seedWord .w32 5489 k := fun k hk => raw_lt .w32 5489 hk
  have a0 := e 0
  have a226 := e 226
  have a227 := e 227
  have a169 := e 169
  have a396 := e 396
  have a623 := e 623
  simp only [Nat.zero_add, Nat.reduceAdd] at a0 a226 a227 a169 a396 a623
  rw [l 0 (by decide), l 1 (by decide), l 397 (by decide)] at a0
  rw [l 226 (by decide), l 227 (by decide), l 623 (by decide)] at a226
  rw [l 227 (by decide), l 228 (by decide), a0] at a227
  rw [l 169 (by decide), l 170 (by decide), l 566 (by decide)] at a169
  rw [l 396 (by decide), l 397 (by decide), a169] at a396
  rw [l 623 (by decide), a0, a396] at a623
  simp only [Nat.reduceAdd]
  rw [a0, a226, a227, a623]
  decide +kernel

theorem test_generate32_first : ∃ t, exec .generate32 (created .w32 5489) = .next t ∧
    t.core32.rsp = some ⟨.ok, 3499211612⟩ ∧ indexValue t.core32 = some 1 ∧ t.core32.twists = 1 := by
  obtain ⟨t, h1, h2, h3, h4, -⟩ := created_generate .w32 5489
  refine ⟨t, h1, ?_, ?_, h4⟩
  · rw [← core_w32, h2, show raw .w32 5489 (params .w32).n = 0x9B0AFA27#32 from test_raw32.1]
    decide
  · rw [indexValue, ← core_w32, h3]
    decide

/-- 95 §4, W = 64, seed 5489: state words [0], [155], [156], [311] after the first twist. -/
theorem test_raw64 :
    raw .w64 5489 312 = 0x245B1C66F2BDC210#64 ∧ raw .w64 5489 (312 + 155) = 0x23B9C89211C7DB80#64 ∧
    raw .w64 5489 (312 + 156) = 0x367692559AEADCA8#64 ∧ raw .w64 5489 (312 + 311) = 0x4094BC3C28993A88#64 := by
  have e : ∀ j, raw .w64 5489 (j + 312) =
      twistWord (params .w64) (raw .w64 5489 j) (raw .w64 5489 (j + 1)) (raw .w64 5489 (j + 156)) := raw_add .w64 5489
  have l : ∀ k, k < 312 → raw .w64 5489 k = seedWord .w64 5489 k := fun k hk => raw_lt .w64 5489 hk
  have a0 := e 0
  have a155 := e 155
  have a156 := e 156
  have a311 := e 311
  simp only [Nat.zero_add, Nat.reduceAdd] at a0 a155 a156 a311
  rw [l 0 (by decide), l 1 (by decide), l 156 (by decide)] at a0
  rw [l 155 (by decide), l 156 (by decide), l 311 (by decide)] at a155
  rw [l 156 (by decide), l 157 (by decide), a0] at a156
  rw [l 311 (by decide), a0, a155] at a311
  simp only [Nat.reduceAdd]
  rw [a0, a155, a156, a311]
  decide +kernel

theorem test_generate64_first : ∃ t, exec .generate64 (created .w64 5489) = .next t ∧
    t.core64.rsp = some ⟨.ok, 14514284786278117030⟩ ∧ indexValue t.core64 = some 1 ∧ t.core64.twists = 1 := by
  obtain ⟨t, h1, h2, h3, h4, -⟩ := created_generate .w64 5489
  refine ⟨t, h1, ?_, ?_, h4⟩
  · rw [← core_w64, h2, show raw .w64 5489 (params .w64).n = 0x245B1C66F2BDC210#64 from test_raw64.1]
    decide
  · rw [indexValue, ← core_w64, h3]
    decide

/-! ### States built by hand -/

/-- A live core with index `i` and every word 1. -/
def liveCore (w : Width) (i : Nat) : CoreState (params w) :=
  { CoreState.reset (params w) with
    words := writeAll (Vector.replicate (params w).n 1), index := some (BitVec.ofNat _ i), live := true, twists := 1 }

/-- The machine with that core. -/
def liveState (w : Width) (i : Nat) : State := State.reset.setCore w (liveCore w i)

theorem liveCore_word (w : Width) (i k : Nat) (hk : k < (params w).n) : readWord (liveCore w i).words k = some 1 := by
  simp [liveCore, readWord_writeAll, hk]

theorem reset_inv : State.reset.Inv := (inv_iff _).mpr fun w => by cases w <;> exact coreReset_inv

/-! ### Generate below N, release, errors -/

/-- The answer's core, where a command answers a next state. -/
def answer (w : Width) (i : Instr) (s : State) : Option (CoreState (params w)) :=
  match exec i s with
  | .next t => some (t.core w)
  | .fault _ => none
  | .refused _ => none

/-- 41_generate R107: a generate at index 623 does not twist and leaves index 624. Temper(1) is in 95 §4. -/
theorem test_generate32_at_623 :
    (answer .w32 .generate32 (liveState .w32 623)).map (fun c => (c.rsp, indexValue c, c.twists, logical c)) =
      some (some ⟨.ok, 0x00400091⟩, some 624, 1, some .exhausted) := by decide +kernel
/-- 41_generate R108. -/
theorem test_generate64_at_311 :
    (answer .w64 .generate64 (liveState .w64 311)).map (fun c => (c.rsp, indexValue c, c.twists, logical c)) =
      some (some ⟨.ok, 0x0040002000020801⟩, some 312, 1, some .exhausted) := by decide +kernel
/-- 95 §6. -/
theorem test_release32_live :
    (answer .w32 .release32 (liveState .w32 5)).map
      (fun c => (c.rsp, indexValue c, c.live, c.twists, readWord c.words 0)) =
      some (some ⟨.ok, 0⟩, none, false, 1, none) := by decide +kernel
/-- 95 §6, after reset. -/
theorem test_release32_reset :
    (answer .w32 .release32 State.reset).map (fun c => (c.rsp, c.live, c.misuse)) =
      some (some ⟨.invalidHandle, 0⟩, false, true) := by decide +kernel
theorem test_release64_live :
    (answer .w64 .release64 (liveState .w64 312)).map
      (fun c => (c.rsp, indexValue c, c.live, c.twists, readWord c.words 311)) =
      some (some ⟨.ok, 0⟩, none, false, 1, none) := by decide +kernel
/-- 95 P5 rows 1 and 2. -/
theorem test_dead64_reset :
    (answer .w64 .generate64 State.reset).map (fun c => (c.rsp, c.live)) = some (some ⟨.invalidHandle, 0⟩, false) ∧
    (answer .w64 .release64 State.reset).map (fun c => (c.rsp, c.live)) = some (some ⟨.invalidHandle, 0⟩, false) := by
  decide +kernel
/-- 10_state R25, R34 (U6, U7): states built by hand. -/
theorem test_generate_faults :
    exec .generate32 (liveState .w32 625) = .fault .indexAboveN ∧
    exec .generate64 (State.reset.setCore .w64 { CoreState.reset (params .w64) with live := true }) =
      .fault .unwrittenIndex ∧
    exec .generate64 (State.reset.setCore .w64 { CoreState.reset (params .w64) with live := true, index := some 3 }) =
      .fault .unwrittenWord := ⟨rfl, rfl, rfl⟩

/-! ### The handshake -/

/-- Inputs: reset, valid command, response ready. -/
def pins32 (rst valid : Bool) (cmd : Cmd 32) (ready : Bool) : Pins 32 := ⟨rst, valid, cmd, ready, false⟩

/-- The machine after reset with moves of the host to come. -/
def withMoves (moves : List HostMove) : State := { State.reset with host := moves }

/-- The 32-bit core's port after a step: response and held command. -/
def portAfter (s : State) : Option (Option (Response 32) × Option (Cmd 32)) :=
  match step s with
  | .next t => some (t.core32.rsp, t.core32.held)
  | .fault _ => none
  | .refused _ => none

theorem test_accept : portAfter (withMoves [.on32 (pins32 false true ⟨2, 0⟩ false)]) =
    some (some ⟨.invalidHandle, 0⟩, none) := by decide +kernel
theorem test_notAcceptedInReset : portAfter (withMoves [.on32 (pins32 true true ⟨2, 0⟩ false)]) =
    some (none, some ⟨2, 0⟩) := by
  decide +kernel
theorem test_response_held_then_taken :
    portAfter { withMoves [.on32 (pins32 false true ⟨1, 7⟩ false)] with
      core32 := respond .ok 9 (CoreState.reset _) } = some (some ⟨.ok, 9⟩, some ⟨1, 7⟩) ∧
    portAfter { withMoves [.on32 (pins32 false true ⟨1, 7⟩ true)] with
      core32 := respond .ok 9 (CoreState.reset _) } = some (none, some ⟨1, 7⟩) := by decide +kernel
theorem test_commandChanged :
    step { withMoves [.on32 (pins32 false true ⟨1, 8⟩ false)] with
      core32 := { CoreState.reset _ with held := some ⟨1, 7⟩ } } = .refused .commandChanged ∧
    step { withMoves [.on32 (pins32 false false ⟨1, 7⟩ false)] with
      core32 := { CoreState.reset _ with held := some ⟨1, 7⟩ } } = .refused .commandChanged := ⟨rfl, rfl⟩
/-- R163 makes no exception for a moment of reset: a change in it, and a change after it of a command kept through it. -/
theorem test_commandChanged_in_reset :
    step { withMoves [.on32 (pins32 true false ⟨1, 7⟩ false)] with
      core32 := { CoreState.reset _ with held := some ⟨1, 7⟩ } } = .refused .commandChanged ∧
    portAfter { withMoves [.on32 (pins32 true true ⟨1, 7⟩ false)] with
      core32 := { respond .ok 9 (CoreState.reset _) with held := some ⟨1, 7⟩ } } = some (none, some ⟨1, 7⟩) :=
  ⟨rfl, by decide +kernel⟩
theorem test_sharedPort : step (withMoves [.on32 ⟨false, true, ⟨0, 0⟩, false, true⟩]) = .refused .sharedPort := rfl
theorem test_foreignStatus : step { withMoves [.on32 (pins32 false false ⟨0, 0⟩ true)] with
    core32 := respond .reserved 0 (CoreState.reset _) } = .fault .foreignStatus := rfl

/-- 95 P3, P5 and the L1-6 sequence, at the level of responses and without a generate that twists. -/
theorem test_session_lifecycle :
    (session [.create32 1, .release32, .generate32, .release32, .generate64, .release64] State.reset).map Prod.fst =
      some [.of32 ⟨.ok, 0⟩, .of32 ⟨.ok, 0⟩, .of32 ⟨.invalidHandle, 0⟩, .of32 ⟨.invalidHandle, 0⟩,
        .of64 ⟨.invalidHandle, 0⟩, .of64 ⟨.invalidHandle, 0⟩] := by decide +kernel

/-! ### Assembler (30_encoding R67, R68) -/

theorem test_parse_create : parseLine ['c', 'r', 'e', 'a', 't', 'e', '_', '3', '2', ' ', '5', '4', '8', '9', ' ', ';', 'x'] =
    .ok (.createW .w32 (some 5489)) := by decide
theorem test_parse_hex : parseLine ['c', 'r', 'e', 'a', 't', 'e', '_', '6', '4', ' ', '0', 'x', '1', 'F'] =
    .ok (.createW .w64 (some 31)) := by decide
theorem test_assemble_copies :
    assemble .w32 [['g', 'e', 'n', 'e', 'r', 'a', 't', 'e', '_', '3', '2', ' ', '*', ' ', '3'], [],
      ['c', 'r', 'e', 'a', 't', 'e', '_', '3', '2']] =
      .ok [.generate32, .generate32, .generate32, .default32] := by decide
theorem test_assemble_refuses :
    assemble .w32 [['r', 'e', 'l', 'e', 'a', 's', 'e', '_', '6', '4']] = .error .wrongWidth ∧
    expandLine .w32 (.createW .w32 (some (2 ^ 32))) = .error .seedTooLarge ∧
    parseLine ['j', 'u', 'm', 'p'] = .error .unknownCommand ∧
    parseLine ['d', 'e', 'f', 'a', 'u', 'l', 't', '_', '3', '2', ' ', '1'] = .error .badOperands := by decide

end Sys2Proof.Tests
end

