-- ==== Sys2Proof/Tests/Witnesses.lean ====
section
/-! SUPPORT. Tests/Witnesses.lean: for each obligation with hypotheses, concrete states and operands that meet all the
hypotheses of each of its clauses together, at boundary values where a clause has a range. -/

namespace Sys2Proof.Tests

open Sys2Proof Sys2Proof.Machine

set_option maxRecDepth 20000

/-- The machine after reset with a core of width `w` and one move of the host on its ports to come. -/
def portState (w : Width) (c : CoreState (params w)) (pins : Pins w.bits) : State :=
  { State.reset.setCore w c with host := [moveOn w pins] }

/-- The all-zero command. -/
def zeroCmd (W : Nat) : Cmd W := ⟨0, 0⟩

theorem liveState_live (w : Width) (i : Nat) : ((liveState w i).core w).live = true := by simp [liveState, liveCore]

theorem liveState_index (w : Width) (i : Nat) (h : i ≤ (params w).n + 1) :
    indexValue ((liveState w i).core w) = some i := by
  have := (params_fit w).indexWide
  simp only [liveState, core_setCore, indexValue, liveCore, Option.map_some, BitVec.toNat_ofNat]
  rw [Nat.mod_eq_of_lt (by omega)]

theorem liveState_word (w : Width) (i k : Nat) (hk : k < (params w).n) :
    readWord ((liveState w i).core w).words k = some 1 := by
  simpa [liveState] using liveCore_word w i k hk

theorem witness_NoReservedOpcodeAndForeignStatusFaults :
    (∃ t r, exec .release32 State.reset = .next t ∧ (t.core .w32).rsp = some r) ∧
    (∃ (s : State) (pins : Pins 64) (r : Response 64), s.host = moveOn .w64 pins :: [] ∧ pins.secondHost = false ∧
      pins.rst = false ∧ handshakeBroken (s.core .w64) pins = false ∧ (s.core .w64).rsp = some r ∧
      pins.rspReady = true ∧ statusCode r.status = 0b10#2) :=
  ⟨⟨_, _, rfl, rfl⟩, portState .w64 (respond .allocationFailure 0 (CoreState.reset _)) (takePins 64), takePins 64,
    ⟨.allocationFailure, 0⟩, rfl, rfl, rfl, rfl, rfl, rfl, rfl⟩

theorem witness_StatusCodesAndWhoProducesThem :
    (∃ t, exec .release32 State.reset = .next t) ∧ (∃ t, exec .default64 State.reset = .next t) :=
  ⟨⟨_, rfl⟩, ⟨_, rfl⟩⟩

theorem witness_EncodeOfDecodedWord :
    decodePacked .w32 (2 ^ 34 - 1) = .ok .release32 ∧ decodePacked .w32 (2 ^ 34 - 3) = .ok (.create32 0xFFFFFFFF) ∧
    decodePacked .w64 0 = .ok .default64 := ⟨rfl, rfl, rfl⟩

theorem witness_StepRunsThePresentedCommand : ∃ (s : State) (pins : Pins 32), s.host = moveOn .w32 pins :: [] ∧
    pins.secondHost = false ∧ pins.rst = false ∧ handshakeBroken (s.core .w32) pins = false ∧
    (s.core .w32).rsp = none ∧ pins.cmdValid = true ∧ (s.core .w32).held = some pins.cmd :=
  ⟨portState .w32 { CoreState.reset _ with held := some (zeroCmd 32) } (presentPins (zeroCmd 32)),
    presentPins (zeroCmd 32), rfl, rfl, rfl, by decide, rfl, rfl, rfl⟩

theorem witness_PlacedWordIsRunByTheNextStep :
    decodeTableWord 40 2 = some .generate32 ∧ decodeTableWord 72 (2 ^ 66 - 1) = some .release64 := ⟨rfl, rfl⟩

theorem witness_ResponseWaitsUntilTaken : ∀ ready : Bool, ∃ (s : State) (pins : Pins 32) (r : Response 32),
    s.host = moveOn .w32 pins :: [] ∧ HostKeeps (s.core .w32) pins ∧ pins.rst = false ∧ pins.rspReady = ready ∧
    pins.cmdValid = true ∧ (s.core .w32).rsp = some r ∧ statusCode r.status = 0b01#2 := fun ready =>
  ⟨portState .w32 (respond .invalidHandle 0 (CoreState.reset _)) ⟨false, true, zeroCmd 32, ready, false⟩,
    ⟨false, true, zeroCmd 32, ready, false⟩, ⟨.invalidHandle, 0⟩, rfl, ⟨rfl, rfl⟩, rfl, rfl, rfl, rfl, rfl⟩

theorem witness_ResetReplacesEveryElement : ∃ (s : State) (pins : Pins 64), s.host = moveOn .w64 pins :: [] ∧
    HostKeeps (s.core .w64) pins ∧ pins.rst = true ∧ (s.core .w64).live = true ∧ pins.cmdValid = true :=
  ⟨portState .w64 (liveCore .w64 312) ⟨true, true, zeroCmd 64, false, false⟩, ⟨true, true, zeroCmd 64, false, false⟩,
    rfl, ⟨rfl, rfl⟩, rfl, rfl, rfl⟩

theorem witness_IdleCoreHoldsItsState : State.reset.host = [] ∧ ∃ (s : State) (pins : Pins 32),
    s.host = moveOn .w32 pins :: [] ∧ pins.secondHost = false ∧ pins.rst = false ∧ pins.cmdValid = false ∧
    (s.core .w32).rsp = none ∧ (s.core .w32).held = none :=
  ⟨rfl, portState .w32 (liveCore .w32 5) (takePins 32), takePins 32, rfl, rfl, rfl, rfl, rfl, rfl⟩

theorem witness_HandshakeCarriesOneTransaction : ∃ (s t : State) (r : Reply),
    s.host = moveOn .w32 (presentPins ⟨2, 0⟩) :: moveOn .w32 (takePins 32) :: [] ∧ (s.core .w32).rsp = none ∧
    (s.core .w32).held = none ∧
    transact (decode (presentedOn .w32 ⟨2, 0⟩)) { s with host := [] } = some (r, t) :=
  ⟨withMoves [moveOn .w32 (presentPins ⟨2, 0⟩), moveOn .w32 (takePins 32)], _, _, rfl, rfl, rfl, rfl⟩

theorem witness_EveryStepKeepsTheInvariant : ∃ t, State.reset.Inv ∧ step State.reset = .next t := ⟨_, reset_inv, rfl⟩

theorem witness_NoFaultUnderTheInvariant : State.reset.Inv := reset_inv

theorem witness_EverySessionIsAnswered : (created .w64 0).Inv :=
  (inv_iff _).mpr fun w => by
    cases w
    · exact coreReset_inv
    · exact seed_inv (params_fit .w64) 0 _

theorem witness_ReseedingForgetsThePast :
    Instr.create32 7 = Instr.createOf .w32 7 ∧ Instr.default64 = Instr.defaultOf .w64 ∧
    ∀ j ∈ [Instr.generate32, .release32, .create32 3], j.width = .w32 := ⟨rfl, rfl, by decide⟩

theorem witness_SeedingFacts :
    seedExpand (params .w32) 9 = seedExpand (params .w32) 9 ∧
    Config.mt32.f = { Config.mt32 with a := 0 }.f ∧ 623 < Config.mt32.n := ⟨rfl, rfl, by decide⟩

theorem witness_SeedExpandFollowsTheRecurrence : 1 ≤ 311 ∧ 311 < (params .w64).n := by decide

theorem witness_SeedingAndLiveGenerateNeverFail :
    ∀ i, i = 0 ∨ i = 624 → ((liveState .w32 i).core .w32).live = true ∧
      indexValue ((liveState .w32 i).core .w32) = some i ∧ i ≤ (params .w32).n ∧
      ∀ k, k < (params .w32).n → ∃ v, readWord ((liveState .w32 i).core .w32).words k = some v := by
  rintro i (rfl | rfl) <;>
    exact ⟨liveState_live _ _, liveState_index .w32 _ (by decide), by decide, fun k hk => ⟨1, liveState_word _ _ k hk⟩⟩

theorem witness_TwistBands : ∀ k, k < (params .w32).n →
    readWord ((created .w32 5489).core .w32).words k = some (raw .w32 5489 k) := fun _ hk => created_word .w32 5489 hk

theorem witness_TwistFacts : readWord (liveCore .w32 1).words 0 = some 1 ∧
    (1 : Word 32) &&& (params .w32).upperMask = 0x7FFFFFFF &&& (params .w32).upperMask :=
  ⟨liveCore_word .w32 1 0 (by decide), by decide⟩

theorem witness_TemperIsABijection : 1 ≤ 1 ∧ 1 ≤ (params .w64).l ∧ temper (params .w32) 5 = temper (params .w32) 5 :=
  ⟨le_rfl, by decide, rfl⟩

/-- Both ends of the range below N. -/
theorem witness_GenerateBelowNExtracts : ∀ i, i = 0 ∨ i = 623 → ((liveState .w32 i).core .w32).live = true ∧
    indexValue ((liveState .w32 i).core .w32) = some i ∧ i < (params .w32).n ∧
    readWord ((liveState .w32 i).core .w32).words i = some 1 := by
  intro i hi
  have h : i < (params .w32).n := by
    rcases hi with rfl | rfl <;> decide
  exact ⟨liveState_live _ _, liveState_index _ _ (by omega), h, liveState_word _ _ _ h⟩

theorem witness_GenerateAtNTwistsFirst : ((liveState .w64 312).core .w64).live = true ∧
    indexValue ((liveState .w64 312).core .w64) = some (params .w64).n ∧
    ∀ k, k < (params .w64).n → ∃ v, readWord ((liveState .w64 312).core .w64).words k = some v :=
  ⟨liveState_live _ _, liveState_index .w64 312 (by decide), fun k hk => ⟨1, liveState_word _ _ k hk⟩⟩

/-- The first value above N and the largest the register holds. -/
theorem witness_IndexAboveNFaults : ∀ i, i = 625 ∨ i = 1023 → ((liveState .w32 i).core .w32).live = true ∧
    indexValue ((liveState .w32 i).core .w32) = some i ∧ (params .w32).n < i := by
  rintro i (rfl | rfl) <;> exact ⟨rfl, by decide, by decide⟩

/-- A live core no word of which holds a value. -/
def hollow (w : Width) (i : Option Nat) : State :=
  State.reset.setCore w { CoreState.reset (params w) with live := true, index := i.map (BitVec.ofNat _) }

theorem witness_ReadsOfNoValueFault :
    (((hollow .w32 none).core .w32).live = true ∧ ((hollow .w32 none).core .w32).index = none) ∧
    (∀ i, i = 0 ∨ i = 311 → ((hollow .w64 (some i)).core .w64).live = true ∧
      indexValue ((hollow .w64 (some i)).core .w64) = some i ∧ i < (params .w64).n ∧
      readWord ((hollow .w64 (some i)).core .w64).words i = none) ∧
    (((hollow .w64 (some 312)).core .w64).live = true ∧
      indexValue ((hollow .w64 (some 312)).core .w64) = some (params .w64).n ∧ 311 < (params .w64).n ∧
      readWord ((hollow .w64 (some 312)).core .w64).words 311 = none) := by
  refine ⟨⟨rfl, rfl⟩, ?_, rfl, by decide, by decide, by simp [hollow, CoreState.reset]⟩
  rintro i (rfl | rfl) <;> exact ⟨rfl, by decide, by decide, by simp [hollow, CoreState.reset]⟩

/-- A generate at N, which adds one, and a seeding of a core that has twisted, which sets 0. -/
theorem witness_TwistOnlyInAStaleGenerate :
    (∃ t, exec .generate64 (created .w64 1) = .next t ∧ (t.core .w64).twists ≠ ((created .w64 1).core .w64).twists) ∧
    (∃ t, exec .default32 (liveState .w32 5) = .next t ∧
      (t.core .w32).twists ≠ ((liveState .w32 5).core .w32).twists) := by
  refine ⟨?_, ⟨_, rfl, by decide⟩⟩
  obtain ⟨t, h1, -, -, h2, -⟩ := created_generate .w64 1
  exact ⟨t, h1, by rw [h2]; decide⟩

theorem witness_InvalidHandleWritesNoState : (State.reset.core .w32).live = false ∧
    Instr.generate32 = Instr.generateOf .w32 ∧ Instr.release32 = Instr.releaseOf .w32 ∧
    ∃ t, exec .release32 (liveState .w32 5) = .next t := ⟨rfl, rfl, rfl, ⟨_, rfl⟩⟩

theorem witness_ReleaseEndsTheInstance : ((liveState .w64 312).core .w64).live = true ∧
    (State.reset.core .w64).live = false ∧
    ∀ i ∈ [Instr.generate64, .release64], i = Instr.generateOf .w64 ∨ i = Instr.releaseOf .w64 :=
  ⟨rfl, rfl, by decide⟩

theorem witness_MisuseIsRecordedForGood : (∃ t, exec .generate32 State.reset = .next t) ∧
    ∃ s t : State, step s = .next t ∧ (s.core .w32).misuse = true :=
  ⟨⟨_, rfl⟩, ⟨State.reset.setCore .w32 { CoreState.reset _ with misuse := true }, _, rfl, rfl⟩⟩

theorem answers_of_map {w : Width} {i : Instr} {s : State} {β : Type} {f : CoreState (params w) → β} {b : β}
    (h : (answer w i s).map f = some b) : ∃ t, exec i s = .next t := by
  unfold answer at h
  cases he : exec i s with
  | next t => exact ⟨t, rfl⟩
  | fault r => simp [he] at h
  | refused r => simp [he] at h

theorem witness_FrameOfTheCommands :
    (((liveState .w32 623).core .w32).live = true ∧
      indexValue ((liveState .w32 623).core .w32) ≠ some (params .w32).n ∧
      ∃ t, exec .generate32 (liveState .w32 623) = .next t) ∧
    (((created .w32 5489).core .w32).live = true ∧ ∃ t, exec .generate32 (created .w32 5489) = .next t) ∧
    (((liveState .w64 5).core .w64).live = true ∧ ∃ t, exec .release64 (liveState .w64 5) = .next t) ∧
    ((State.reset.core .w64).live = false ∧ ∃ t, exec .release64 State.reset = .next t) ∧
    (∃ t, exec (.create64 7) State.reset = .next t) := by
  refine ⟨⟨rfl, by decide, answers_of_map test_generate32_at_623⟩, ⟨rfl, ?_⟩, ⟨rfl, _, rfl⟩, ⟨rfl, _, rfl⟩, ⟨_, rfl⟩⟩
  obtain ⟨t, h, -⟩ := test_generate32_first
  exact ⟨t, h⟩

/-- Every row of the table: a seeding; UNSEEDED; EXHAUSTED; FRESH at both ends of its range; reset. -/
theorem witness_LogicalTransitions :
    Instr.create32 0 = Instr.createOf .w32 0 ∧ logical (State.reset.core .w32) = some .unseeded ∧
    ((∀ k, k < (params .w64).n → ∃ v, readWord ((liveState .w64 312).core .w64).words k = some v) ∧
      logical ((liveState .w64 312).core .w64) = some .exhausted) ∧
    (∀ i, i = 0 ∨ i = 310 ∨ i = 311 →
      (∀ k, k < (params .w64).n → ∃ v, readWord ((liveState .w64 i).core .w64).words k = some v) ∧
      logical ((liveState .w64 i).core .w64) = some .fresh ∧ indexValue ((liveState .w64 i).core .w64) = some i) ∧
    (∃ (s : State) (pins : Pins 32), s.host = moveOn .w32 pins :: [] ∧ HostKeeps (s.core .w32) pins ∧ pins.rst = true) := by
  refine ⟨rfl, rfl, ⟨fun k hk => ⟨1, liveState_word _ _ k hk⟩, by decide⟩, ?_,
    portState .w32 (liveCore .w32 5) ⟨true, false, zeroCmd 32, false, false⟩, ⟨true, false, zeroCmd 32, false, false⟩,
    rfl, ⟨rfl, rfl⟩, rfl⟩
  rintro i (rfl | rfl | rfl) <;>
    exact ⟨fun k hk => ⟨1, liveState_word _ _ k hk⟩, by decide, liveState_index .w64 _ (by decide)⟩

theorem witness_CoresShareNothing : ∃ t u, exec .release32 (liveState .w32 5) = .next t ∧ exec (.create64 1) t = .next u ∧
    Instr.width .release32 ≠ Instr.width (.create64 1) ∧
    (liveState .w32 5).core .w32 = (liveState .w32 5).core .w32 := ⟨_, _, rfl, rfl, by decide, rfl⟩

theorem witness_OnlyGenerateReturnsData : ∃ (t : State) (r : Response 32),
    exec .generate32 (created .w32 5489) = .next t ∧ (t.core .w32).rsp = some r ∧ r.data ≠ 0 := by
  obtain ⟨t, h1, h2, -⟩ := test_generate32_first
  exact ⟨t, _, h1, h2, by decide⟩

/-- The last clause at both ends of its range. -/
theorem witness_IdempotencyOfTheCommands : (∃ t, exec (.create32 3) State.reset = .next t) ∧
    (∃ t, exec .default64 State.reset = .next t) ∧ (∃ t, exec .release32 (liveState .w32 5) = .next t) ∧
    ∀ i, i = 0 ∨ i = 622 → ((liveState .w32 i).core .w32).live = true ∧
      indexValue ((liveState .w32 i).core .w32) = some i ∧ i + 1 < (params .w32).n ∧
      readWord ((liveState .w32 i).core .w32).words i = some 1 ∧
      readWord ((liveState .w32 i).core .w32).words (i + 1) = some 1 := by
  refine ⟨⟨_, rfl⟩, ⟨_, rfl⟩, ⟨_, rfl⟩, ?_⟩
  intro i hi
  have h : i + 1 < (params .w32).n := by
    rcases hi with rfl | rfl <;> decide
  exact ⟨liveState_live _ _, liveState_index _ _ (by omega), h, liveState_word _ _ _ (by omega), liveState_word _ _ _ h⟩

/-- The clause of the index, at N and just below N. The clause of the seeded sequence has its witness in
witness_OutputSequenceClosedForm. -/
theorem witness_IdempotencyOfTheCommands_index :
    (((created .w32 5489).core .w32).live = true ∧ ∃ t, exec .generate32 (created .w32 5489) = .next t) ∧
    (((liveState .w64 311).core .w64).live = true ∧ ∃ t, exec .generate64 (liveState .w64 311) = .next t) := by
  obtain ⟨t, h, -⟩ := test_generate32_first
  exact ⟨⟨rfl, t, h⟩, rfl, answers_of_map test_generate64_at_311⟩

/-- One witness for all four clauses: two commands of different cores, from reset, with a move of the host still to come. -/
theorem witness_SessionsAreSequential : ∃ (s t u : State) (rs qs : List Reply), s.Inv ∧
    s.host = programMoves [.release32] ++ (programMoves [.generate64] ++ [.on32 (takePins 32)]) ∧
    (∀ w, (s.core w).rsp = none ∧ (s.core w).held = none) ∧
    run (2 * 1) s = some (rs, t) ∧ run (2 * 1) t = some (qs, u) ∧
    rs = [.of32 ⟨.invalidHandle, 0⟩] ∧ qs = [.of64 ⟨.invalidHandle, 0⟩] := by
  refine ⟨withMoves (programMoves [.release32, .generate64] ++ [.on32 (takePins 32)]), _, _, _, _, ?_, rfl, ?_, rfl, rfl,
    rfl, rfl⟩
  · exact ⟨reset_inv.core32, reset_inv.core64⟩
  · intro w; cases w <;> exact ⟨rfl, rfl⟩

theorem witness_EqualEnginesAnswerAlike :
    SameEngine ((liveState .w32 5).core .w32) (({ liveState .w32 5 with host := [.on32 (takePins 32)] } : State).core .w32) ∧
    ∀ i ∈ [Instr.generate32, .default32], i.width = .w32 := ⟨⟨rfl, rfl, rfl⟩, by decide⟩

/-- The raw sequence of a seed exists: SeedExpand's words and the twist's continuation. -/
theorem witness_OutputSequenceClosedForm (w : Width) (s : Word w.bits) : RawSequence (params w) s (raw w s) where
  first := by
    have hn := (params_fit w).twoWords
    rw [raw_lt w s (by omega), seedWord, seedExpand_zero (params w) s (by omega)]
    rfl
  seeded i h1 h2 := by
    obtain ⟨k, rfl⟩ : ∃ k, i = k + 1 := ⟨i - 1, by omega⟩
    obtain ⟨y, e1, e2⟩ := seedExpand_step (params w) s k h2
    rw [raw_lt w s h2, raw_lt w s (by omega), seedWord, seedWord, e2]
    simp [e1, seedNext]
  twisted := raw_add w s

theorem witness_TwistCountAndIndex : (Instr.default32 = Instr.defaultOf .w32 ∧
    ∃ seed, Instr.create64 5 = Instr.createOf .w64 seed) ∧ 1 ≤ (params .w32).n ∧ 1 ≤ (params .w32).n + 1 :=
  ⟨⟨rfl, 5, rfl⟩, by decide⟩

/-- The largest seed and the first refused one, the least number of copies, a foreign suffix, a text refused. -/
theorem witness_AssemblerAcceptsWellFormedLines :
    (2 ^ 32 - 1 < 2 ^ Width.bits .w32) ∧ 2 ^ Width.bits .w32 ≤ 2 ^ 32 ∧ Width.w64 ≠ Width.w32 ∧ 1 ≤ 1 ∧
    expandLine .w64 (.generateW .w64 2) = .ok [.generate64, .generate64] ∧
    parseLine ['r', 'e', 'l', 'e', 'a', 's', 'e', '_', '6', '4'] = .ok (.releaseW .w64) ∧
    expandLine .w32 (.releaseW .w64) = .error .wrongWidth := ⟨by decide, le_rfl, by decide, le_rfl, rfl, by decide, rfl⟩

/-- The clauses of programs: accepted lines before, a line accepted, one refused once read, one that cannot be read, and an
accepted line after. -/
theorem witness_AssemblerAcceptsWellFormedLines_programs :
    assemble .w32 [['r', 'e', 'l', 'e', 'a', 's', 'e', '_', '3', '2'], []] = .ok [.release32] ∧
    parseLine ['d', 'e', 'f', 'a', 'u', 'l', 't', '_', '3', '2'] = .ok (.defaultW .w32) ∧
    expandLine .w32 (.defaultW .w32) = .ok [.default32] ∧
    parseLine ['r', 'e', 'l', 'e', 'a', 's', 'e', '_', '6', '4'] = .ok (.releaseW .w64) ∧
    expandLine .w32 (.releaseW .w64) = .error .wrongWidth ∧ parseLine ['j', 'u', 'm', 'p'] = .error .unknownCommand ∧
    assemble .w32 [['g', 'e', 'n', 'e', 'r', 'a', 't', 'e', '_', '3', '2']] = .ok [.generate32] := by decide

theorem witness_PseudoInstructionsExpand :
    1 ≤ 1 ∧ expandLine .w64 (.generateW .w64 1) = .ok (List.replicate 1 .generate64) := ⟨le_rfl, rfl⟩

end Sys2Proof.Tests
end

section
/-! PROOFS of family 00_scope: the build-time parameters (R5) and the width of the index register (R22). -/

namespace Sys2Proof

/-- A number above `2^k` and at most `2^(k+1)` has the rounded-up logarithm `k + 1`. -/
theorem clog_two_eq_succ {k x : Nat} (hlo : 2 ^ k < x) (hhi : x ≤ 2 ^ (k + 1)) : Nat.clog 2 x = k + 1 :=
  le_antisymm (Nat.clog_le_of_le_pow hhi) ((Nat.lt_clog_iff_pow_lt Nat.one_lt_two).mpr hlo)

/-- The index register is as wide as the values 0 to N need and no wider (10_state R22). -/
theorem idxBits_eq_clog (w : Width) : (params w).idxBits = Nat.clog 2 ((params w).n + 1) := by
  cases w with
  | w32 => exact (clog_two_eq_succ (k := 9) (by decide) (by decide)).symm
  | w64 => exact (clog_two_eq_succ (k := 8) (by decide) (by decide)).symm

/-- N words less the R bits the twist leaves out: the exponent of the period 2^19937 - 1 (00_scope R5). -/
theorem n_mul_bits_sub_r (w : Width) : (params w).n * w.bits - (params w).r = 19937 := by
  cases w <;> rfl

theorem lowerMask_w32 : (params .w32).lowerMask = 0x7FFFFFFF#32 := by decide

theorem lowerMask_w64 : (params .w64).lowerMask = 0x7FFFFFFF#64 := by decide

/-- UPPER_MASK of R5's W = 32 column: the top bit alone. -/
theorem upperMask_w32 : (params .w32).upperMask = 0x80000000#32 := by
  rw [Params.upperMask, lowerMask_w32]
  decide

/-- UPPER_MASK of R5's W = 64 column: the top 33 bits. -/
theorem upperMask_w64 : (params .w64).upperMask = 0xFFFFFFFF80000000#64 := by
  rw [Params.upperMask, lowerMask_w64]
  decide

/-- Settles O1: the columns of R5 are the two records' literals, the masks are computed from R, and the relations between
the parameters are lemmas over both widths. -/
theorem parametersFitTheTable : Obligations.ParametersFitTheTable := by
  refine ⟨?column32, ?column64, ?relations⟩
  case column32 =>
    exact ⟨rfl, rfl, rfl, rfl, rfl, rfl, rfl, rfl, rfl, rfl, rfl, rfl, rfl, lowerMask_w32, upperMask_w32, rfl, rfl⟩
  case column64 =>
    exact ⟨rfl, rfl, rfl, rfl, rfl, rfl, rfl, rfl, rfl, rfl, rfl, rfl, rfl, lowerMask_w64, upperMask_w64, rfl, rfl⟩
  case relations =>
    exact fun w => ⟨n_mul_bits_sub_r w, idxBits_eq_clog w, (Machine.params_fit w).offsetLt⟩

end Sys2Proof
end

section
/-! PROOFS of family 10_state: the state after reset, the invariant and the safety of every step, the faults of a generate
on a state built by hand, the access table as a frame, and cores that answer alike (10_state R25 to R34). -/

namespace Sys2Proof.Machine

variable {W : Nat} {p : Params W}

/-! ### The state after reset (R32) -/

@[simp] theorem core_reset (w : Width) : State.reset.core w = CoreState.reset (params w) := by cases w <;> rfl

/-- Settles O14: both cores are `CoreState.reset`, whose array is `Storage.unwritten`. -/
theorem resetValues : Obligations.ResetValues := by
  intro w
  rw [core_reset]
  exact ⟨rfl, readWord_unwritten, rfl, rfl, rfl, rfl⟩

/-- Settles O18, core by core. -/
theorem invariantAtReset : Obligations.InvariantAtReset :=
  (inv_iff _).mpr fun w => by rw [core_reset]; exact coreReset_inv

/-! ### The invariant of one core -/

/-- The invariant speaks of live, words and index only, and of the response. -/
theorem CoreState.Inv.of_sameEngine {c d : CoreState p} (hc : c.Inv) (he : SameEngine d c)
    (hr : ∀ r, d.rsp = some r → r.status = .ok ∨ (r.status = .invalidHandle ∧ r.data = 0)) : d.Inv := by
  obtain ⟨hlive, hwords, hindex⟩ := he
  have hvalue : indexValue d = indexValue c := by rw [indexValue, hindex, indexValue]
  constructor
  case liveIndex => rw [hlive, hvalue]; exact hc.liveIndex
  case liveWords => rw [hlive, hwords]; exact hc.liveWords
  case deadIndex => rw [hlive, hindex]; exact hc.deadIndex
  case deadWords => rw [hlive, hwords]; exact hc.deadWords
  case response => exact hr

theorem waitCore_inv {c : CoreState p} (hc : c.Inv) (pins : Pins W) : (waitCore c pins).Inv :=
  hc.of_sameEngine ⟨rfl, rfl, rfl⟩ hc.response

theorem deliverCore_inv {c : CoreState p} (hc : c.Inv) (pins : Pins W) : (deliverCore c pins).Inv :=
  hc.of_sameEngine ⟨rfl, rfl, rfl⟩ (by simp)

theorem acceptCore_inv {c : CoreState p} (hc : c.Inv) : (acceptCore c).Inv :=
  hc.of_sameEngine ⟨rfl, rfl, rfl⟩ hc.response

theorem raiseInvalidHandle_inv {c : CoreState p} (hc : c.Inv) : (raiseInvalidHandle c).Inv := by
  refine hc.of_sameEngine ⟨rfl, rfl, rfl⟩ fun r hr => .inr ?_
  obtain rfl : ⟨.invalidHandle, 0⟩ = r := Option.some.inj hr
  exact ⟨rfl, rfl⟩

/-- A live core with all words written, an index from 1 to N and an OK response meets the invariant. -/
theorem inv_of_live {c : CoreState p} {idx : BitVec p.idxBits} {data : Word W} (hl : c.live = true)
    (hi : c.index = some idx) (hpos : 1 ≤ idx.toNat) (hle : idx.toNat ≤ p.n)
    (hw : ∀ k, k < p.n → ∃ v, readWord c.words k = some v) (hr : c.rsp = some ⟨.ok, data⟩) : c.Inv where
  liveIndex _ := ⟨idx.toNat, by simp [indexValue, hi], hpos, hle⟩
  liveWords _ := hw
  deadIndex h := by simp [hl] at h
  deadWords h := by simp [hl] at h
  response r h := by
    obtain rfl : ⟨.ok, data⟩ = r := Option.some.inj (hr.symm.trans h)
    exact .inl rfl

theorem release_inv {c : CoreState p} (hc : c.Inv) : (release c).Inv := by
  cases hl : c.live with
  | false => rw [release_dead hl]; exact raiseInvalidHandle_inv hc
  | true =>
    rw [release_live hl]
    constructor <;> simp

/-- A generate of a core that meets the invariant answers a next state that meets it: the error while not live; below N
an extract, after which the index is at most N; at N a twist of an array that is all written, after which it is 1. -/
theorem generate_inv (hp : ParamsFit p) {c : CoreState p} (hc : c.Inv) : ∃ d, generate c = .next d ∧ d.Inv := by
  cases hl : c.live with
  | false => exact ⟨_, generate_dead hl, raiseInvalidHandle_inv hc⟩
  | true =>
    obtain ⟨i, hi, hpos, hle⟩ := hc.liveIndex hl
    obtain ⟨idx, hidx, rfl⟩ := indexValue_eq_some hi
    have hwritten := hc.liveWords hl
    rcases Nat.lt_or_eq_of_le hle with hlt | hn
    · obtain ⟨y, hy⟩ := hwritten _ hlt
      have hsucc := toNat_index_succ hp hle
      exact ⟨_, generate_fresh hl hidx hlt hy,
        inv_of_live (idx := idx + 1) hl rfl (by omega) (by omega) hwritten rfl⟩
    · obtain ⟨ws, htwist, hws⟩ := twist_written hp.offsetPos hp.offsetLt hwritten
      have htwo := hp.twoWords
      obtain ⟨y, hy⟩ := hws 0 (by omega)
      have hone : ((0 : BitVec p.idxBits) + 1).toNat = 1 := by
        simpa using toNat_index_succ hp (idx := 0) (by simp)
      exact ⟨_, generate_stale hl hidx hn htwist hy,
        inv_of_live (idx := 0 + 1) hl rfl (by omega) (by omega) hws rfl⟩

/-- Every command answers a next state of its core, from every state that meets the invariant, and keeps the invariant. -/
theorem coreMeaning_inv (i : Instr) {c : CoreState (params i.width)} (hc : c.Inv) :
    ∃ d, coreMeaning i c = .next d ∧ d.Inv := by
  cases i with
  | default32 => exact ⟨_, rfl, seed_inv (params_fit .w32) _ c⟩
  | create32 x => exact ⟨_, rfl, seed_inv (params_fit .w32) x c⟩
  | generate32 => exact generate_inv (params_fit .w32) hc
  | release32 => exact ⟨_, rfl, release_inv hc⟩
  | default64 => exact ⟨_, rfl, seed_inv (params_fit .w64) _ c⟩
  | create64 x => exact ⟨_, rfl, seed_inv (params_fit .w64) x c⟩
  | generate64 => exact generate_inv (params_fit .w64) hc
  | release64 => exact ⟨_, rfl, release_inv hc⟩

/-! ### The invariant of the machine -/

theorem setCore_inv {s : State} (hs : s.Inv) {w : Width} {c : CoreState (params w)} (hc : c.Inv) :
    (s.setCore w c).Inv := by
  refine (inv_iff _).mpr fun v => ?_
  by_cases h : v = w
  · subst h
    rwa [core_setCore]
  · rw [core_setCore_ne h]
    exact (inv_iff s).mp hs v

/-- A command does on the machine what it means on its core. -/
theorem exec_of_coreMeaning {i : Instr} {s : State} {d : CoreState (params i.width)}
    (h : coreMeaning i (s.core i.width) = .next d) : exec i s = .next (s.setCore i.width d) := by
  rw [exec_eq_onCore, onCore_next_iff]
  exact ⟨d, h, rfl⟩

theorem exec_inv (i : Instr) {s : State} (hs : s.Inv) : ∃ t, exec i s = .next t ∧ t.Inv := by
  obtain ⟨d, hd, hinv⟩ := coreMeaning_inv i ((inv_iff s).mp hs i.width)
  exact ⟨_, exec_of_coreMeaning hd, setCore_inv hs hinv⟩

/-- A foreign status is delivered only where a response waits that no core produces (30_encoding R65). -/
theorem react_foreignStatus {c : CoreState p} {pins : Pins W} (h : react c pins = .foreignStatus) :
    ∃ r, c.rsp = some r ∧ statusProduced r.status = false := by
  have hcases := react_cases c pins
  simp only [h, reduceCtorEq, false_and, false_or, or_false, true_and] at hcases
  obtain ⟨-, -, -, r, hr, -, hforeign⟩ := hcases
  exact ⟨r, hr, hforeign⟩

/-- Under the invariant no foreign status waits. -/
theorem react_ne_foreignStatus {c : CoreState p} (hc : c.Inv) (pins : Pins W) :
    react c pins ≠ .foreignStatus := by
  intro h
  obtain ⟨r, hr, hforeign⟩ := react_foreignStatus h
  rcases hc.response r hr with hok | ⟨hinvalid, -⟩
  · simp [hok, statusProduced] at hforeign
  · simp [hinvalid, statusProduced] at hforeign

/-- An outcome that is safe: a state that meets the invariant, or no meaning, but no fault. -/
def SafeOutcome : Host.Outcome State Fault Refusal → Prop
  | .next t => t.Inv
  | .fault _ => False
  | .refused _ => True

/-- A moment on one core's ports is safe, whatever `react` says. -/
theorem moment_safe (w : Width) (pins : Pins w.bits) {s : State} (hs : s.Inv) : SafeOutcome (moment w pins s) := by
  have hc : (s.core w).Inv := (inv_iff s).mp hs w
  unfold moment
  cases h : react (s.core w) pins with
  | sharedPort => trivial
  | commandChanged => trivial
  | foreignStatus => exact absurd h (react_ne_foreignStatus hc pins)
  | reset => exact setCore_inv hs (resetCore_inv _ pins)
  | deliver => exact setCore_inv hs (deliverCore_inv hc pins)
  | wait => exact setCore_inv hs (waitCore_inv hc pins)
  | accept cmd =>
    obtain ⟨t, ht, hinv⟩ := exec_inv (decode (presentedOn w cmd)) (setCore_inv hs (acceptCore_inv hc))
    simp only [ht]
    exact hinv

/-- The invariant does not speak of the host's moves. -/
theorem withHost_inv {s : State} (hs : s.Inv) (h : List HostMove) : ({ s with host := h } : State).Inv :=
  ⟨hs.core32, hs.core64⟩

/-- One step is safe, whatever the host drives. -/
theorem step_safe {s : State} (hs : s.Inv) : SafeOutcome (step s) := by
  rcases host_cases s with hidle | ⟨w, pins, rest, hmove⟩
  · rw [step_idle hidle]
    exact hs
  · rw [step_move hmove]
    exact moment_safe w pins (withHost_inv hs rest)

/-- Settles O19: a step is safe. -/
theorem everyStepKeepsTheInvariant : Obligations.EveryStepKeepsTheInvariant := by
  intro s t hs ht
  have hsafe := step_safe hs
  rwa [ht] at hsafe

/-- Settles O20: a step is safe, so it is no fault. -/
theorem noFaultUnderTheInvariant : Obligations.NoFaultUnderTheInvariant := by
  intro s f hs hf
  have hsafe := step_safe hs
  rwa [hf] at hsafe

/-! ### Cores with equal live, words and index (R33) -/

theorem SameEngine.symm {c d : CoreState p} : SameEngine c d → SameEngine d c
  | ⟨hlive, hwords, hindex⟩ => ⟨hlive.symm, hwords.symm, hindex.symm⟩

theorem sameEngine_cloneInto (c d : CoreState p) : SameEngine (cloneInto c d) c := ⟨rfl, rfl, rfl⟩

theorem generate_sameEngine {c d c' : CoreState p} (he : SameEngine c d) (h : generate c = .next c') :
    ∃ d', generate d = .next d' ∧ SameEngine c' d' ∧ c'.rsp = d'.rsp := by
  obtain ⟨hlive, hwords, hindex⟩ := he
  rcases generate_next h with
    ⟨hdead, rfl⟩ | ⟨hl, idx, hi, hle, b, idx', y, ⟨hn, rfl, rfl⟩ | ⟨hn, rfl, ws, htwist, rfl⟩, hy, rfl⟩
  · exact ⟨_, generate_dead (hlive ▸ hdead), ⟨hlive, hwords, hindex⟩, rfl⟩
  · exact ⟨_, generate_fresh (hlive ▸ hl) (hindex ▸ hi) (by omega) (hwords ▸ hy), ⟨hlive, hwords, rfl⟩, rfl⟩
  · exact ⟨_, generate_stale (hlive ▸ hl) (hindex ▸ hi) hn (hwords ▸ htwist) hy, ⟨hlive, rfl, rfl⟩, rfl⟩

theorem release_sameEngine {c d : CoreState p} (he : SameEngine c d) :
    SameEngine (release c) (release d) ∧ (release c).rsp = (release d).rsp := by
  obtain ⟨hlive, hwords, hindex⟩ := he
  cases hl : c.live with
  | false =>
    rw [release_dead hl, release_dead (hlive ▸ hl)]
    exact ⟨⟨hlive, hwords, hindex⟩, rfl⟩
  | true =>
    rw [release_live hl, release_live (hlive ▸ hl)]
    exact ⟨⟨rfl, rfl, rfl⟩, rfl⟩

/-- A seeding command reads nothing of its core. -/
theorem seed_sameEngine (x : Word W) (c d : CoreState p) :
    SameEngine (seed x c) (seed x d) ∧ (seed x c).rsp = (seed x d).rsp :=
  ⟨⟨rfl, rfl, rfl⟩, rfl⟩

/-- A command reads live, words and index only, and writes these and the response from them alone. -/
theorem coreMeaning_sameEngine (i : Instr) {c d c' : CoreState (params i.width)} (he : SameEngine c d)
    (h : coreMeaning i c = .next c') :
    ∃ d', coreMeaning i d = .next d' ∧ SameEngine c' d' ∧ c'.rsp = d'.rsp := by
  cases i with
  | generate32 => exact generate_sameEngine he h
  | generate64 => exact generate_sameEngine he h
  | release32 => cases h; exact ⟨_, rfl, release_sameEngine he⟩
  | release64 => cases h; exact ⟨_, rfl, release_sameEngine he⟩
  | default32 => cases h; exact ⟨_, rfl, seed_sameEngine _ c d⟩
  | default64 => cases h; exact ⟨_, rfl, seed_sameEngine _ c d⟩
  | create32 x => cases h; exact ⟨_, rfl, seed_sameEngine x c d⟩
  | create64 x => cases h; exact ⟨_, rfl, seed_sameEngine x c d⟩

/-- A transaction that is carried out is an exec with a response, which is delivered. -/
theorem transact_some {i : Instr} {s u : State} {reply : Reply} (h : transact i s = some (reply, u)) :
    ∃ t r, exec i s = .next t ∧ (t.core i.width).rsp = some r ∧ reply = replyOf i.width r ∧
      u = takeResponse i.width t := by
  unfold transact at h
  cases he : exec i s with
  | fault f => simp [he] at h
  | refused f => simp [he] at h
  | next t =>
    simp only [he, Option.map_eq_some_iff, Prod.mk.injEq] at h
    obtain ⟨r, hr, rfl, rfl⟩ := h
    exact ⟨t, r, rfl, hr, rfl, rfl⟩

theorem transact_sameEngine {i : Instr} {w : Width} (hw : i.width = w) {s t u : State} {reply : Reply}
    (he : SameEngine (s.core w) (t.core w)) (h : transact i s = some (reply, u)) :
    ∃ v, transact i t = some (reply, v) ∧ SameEngine (u.core w) (v.core w) := by
  subst hw
  obtain ⟨s', r, hs, hr, rfl, rfl⟩ := transact_some h
  obtain ⟨c, hc, rfl⟩ := exec_next hs
  rw [core_setCore] at hr
  obtain ⟨d, hd, hengine, hrsp⟩ := coreMeaning_sameEngine i he hc
  refine ⟨_, transact_eq rfl (exec_of_coreMeaning hd) (by rw [core_setCore, ← hrsp, hr]), ?_⟩
  simpa only [takeResponse, core_setCore] using hengine

/-- A session that is answered on one core is answered with the same replies on a core with an equal engine. -/
theorem session_sameEngine {w : Width} {is : List Instr} (hw : ∀ i ∈ is, i.width = w) {s t u : State}
    {replies : List Reply} (he : SameEngine (s.core w) (t.core w)) (h : session is s = some (replies, u)) :
    ∃ v, session is t = some (replies, v) := by
  induction is generalizing s t u replies with
  | nil =>
    obtain ⟨rfl, -⟩ : [] = replies ∧ s = u := by simpa [session] using h
    exact ⟨t, rfl⟩
  | cons i is ih =>
    obtain ⟨hi, his⟩ := List.forall_mem_cons.mp hw
    simp only [session] at h
    cases hfirst : transact i s with
    | none => simp [hfirst] at h
    | some first =>
      obtain ⟨reply, s'⟩ := first
      cases hrest : session is s' with
      | none => simp [hfirst, hrest] at h
      | some rest =>
        obtain ⟨rs, u'⟩ := rest
        obtain ⟨rfl, -⟩ : reply :: rs = replies ∧ u' = u := by simpa [hfirst, hrest] using h
        obtain ⟨t', ht, hengine⟩ := transact_sameEngine hi he hfirst
        obtain ⟨v, hv⟩ := ih his hengine hrest
        exact ⟨v, by simp [session, ht, hv]⟩

/-- Settles O46: replies carry over from either core to the other, so both sessions give the same or both stop. -/
theorem equalEnginesAnswerAlike : Obligations.EqualEnginesAnswerAlike := by
  refine ⟨fun w s t is he hw => Option.ext fun replies => ?_, fun w => sameEngine_cloneInto⟩
  simp only [Option.map_eq_some_iff, Prod.exists, exists_and_right, exists_eq_right]
  exact ⟨fun ⟨_, h⟩ => session_sameEngine hw he h, fun ⟨_, h⟩ => session_sameEngine hw he.symm h⟩

/-! ### The faults of a generate on a state built by hand (R25, R34) -/

theorem generate_indexNone {c : CoreState p} (hl : c.live = true) (hi : c.index = none) :
    generate c = .fault .unwrittenIndex := by
  simp [generate, hl, hi]

theorem generate_aboveN {c : CoreState p} {idx : BitVec p.idxBits} (hl : c.live = true) (hi : c.index = some idx)
    (hgt : p.n < idx.toNat) : generate c = .fault .indexAboveN := by
  simp [generate, hl, hi, hgt]

theorem generate_fresh_unwritten {c : CoreState p} {idx : BitVec p.idxBits} (hl : c.live = true)
    (hi : c.index = some idx) (hlt : idx.toNat < p.n) (hy : readWord c.words idx.toNat = none) :
    generate c = .fault .unwrittenWord := by
  have hle : ¬ p.n < idx.toNat := by omega
  have hne : idx.toNat ≠ p.n := by omega
  simp [generate, hl, hi, hle, twistIfStale, hne, extract, hy]

theorem generate_stale_unwritten {c : CoreState p} {idx : BitVec p.idxBits} (hl : c.live = true)
    (hi : c.index = some idx) (hn : idx.toNat = p.n) (ht : twist p c.words = none) :
    generate c = .fault .unwrittenWord := by
  simp [generate, hl, hi, hn, twistIfStale, ht]

/-- An iteration of the twist that is carried out has read the word at its position, and writes that position only. -/
theorem twistAt_some {i : Nat} {ws ws' : Storage p} (h : twistAt p i ws = some ws') :
    (∃ a, readWord ws i = some a) ∧ ∃ v, ws' = writeWord ws i v := by
  unfold twistAt at h
  split at h
  · rename_i a b c ha hb hc
    exact ⟨⟨a, ha⟩, _, (Option.some.inj h).symm⟩
  · cases h

/-- `k` iterations that are carried out have read every position below `k`, each before it was written, and leave the
positions from `k` on as they were. -/
theorem twistPass_some {k : Nat} {ws ws' : Storage p} (h : twistPass p k ws = some ws') :
    (∀ j, j < k → ∃ a, readWord ws j = some a) ∧ ∀ j, k ≤ j → readWord ws' j = readWord ws j := by
  induction k generalizing ws' with
  | zero =>
    obtain rfl : ws = ws' := Option.some.inj h
    exact ⟨fun j hj => absurd hj (Nat.not_lt_zero j), fun _ _ => rfl⟩
  | succ k ih =>
    rw [twistPass_succ] at h
    obtain ⟨mid, hmid, hlast⟩ := Option.bind_eq_some_iff.mp h
    obtain ⟨hread, hkeep⟩ := ih hmid
    obtain ⟨hk, v, rfl⟩ := twistAt_some hlast
    rw [hkeep k le_rfl] at hk
    constructor
    · intro j hj
      rcases Nat.lt_succ_iff_lt_or_eq.mp hj with hlt | rfl
      · exact hread j hlt
      · exact hk
    · intro j hj
      rw [readWord_writeWord_ne (by omega), hkeep j (by omega)]

/-- The twist reads every word, so it is not carried out where one holds no value (20_memory R41). -/
theorem twist_unwritten {ws : Storage p} {k : Nat} (hk : k < p.n) (h : readWord ws k = none) : twist p ws = none := by
  refine Option.eq_none_iff_forall_ne_some.mpr fun ws' htwist => ?_
  obtain ⟨a, ha⟩ := (twistPass_some htwist).1 k hk
  simp [h] at ha

/-- A fault of the core's generate is the fault of the command. -/
theorem exec_generateOf_fault {w : Width} {s : State} {f : Fault} (h : generate (s.core w) = .fault f) :
    exec (Instr.generateOf w) s = .fault f := by
  rw [exec_generateOf, onCore_fault_iff, h]

/-- Settles O34. -/
theorem indexAboveNFaults : Obligations.IndexAboveNFaults := by
  intro w s i hl hi hgt
  obtain ⟨idx, hidx, rfl⟩ := indexValue_eq_some hi
  exact exec_generateOf_fault (generate_aboveN hl hidx hgt)

/-- Settles O35: no index; below N the extract reads the word at the index; at N the twist reads every word. -/
theorem readsOfNoValueFault : Obligations.ReadsOfNoValueFault := by
  refine ⟨?noIndex, ?belowN, ?atN⟩
  case noIndex =>
    intro w s hl hi
    exact exec_generateOf_fault (generate_indexNone hl hi)
  case belowN =>
    intro w s i hl hi hlt hword
    obtain ⟨idx, hidx, rfl⟩ := indexValue_eq_some hi
    exact exec_generateOf_fault (generate_fresh_unwritten hl hidx hlt hword)
  case atN =>
    intro w s k hl hi hk hword
    obtain ⟨idx, hidx, hn⟩ := indexValue_eq_some hi
    exact exec_generateOf_fault (generate_stale_unwritten hl hidx hn (twist_unwritten hk hword))

/-! ### The access table as a frame (R26) -/

/-- A command that leaves the held command of its core leaves the rest of the machine. -/
theorem restUnchanged_setCore {w : Width} {s : State} {c : CoreState (params w)} (h : c.held = (s.core w).held) :
    RestUnchanged w s (s.setCore w c) :=
  ⟨fun _ hv => core_setCore_ne hv s c, setCore_host w s c, by rw [core_setCore, h]⟩

/-- A generate, with a twist or without one, leaves the held command and the live bit, and a live one the record of
misuse. -/
theorem generate_frame {c d : CoreState p} (h : generate c = .next d) :
    d.held = c.held ∧ d.live = c.live ∧ (c.live = true → d.misuse = c.misuse) := by
  rcases generate_next h with
    ⟨hdead, rfl⟩ | ⟨-, _, -, -, b, _, _, ⟨-, rfl, -⟩ | ⟨-, -, _, -, rfl⟩, -, rfl⟩
  · exact ⟨rfl, rfl, fun hl => by simp [hdead] at hl⟩
  · exact ⟨rfl, rfl, fun _ => rfl⟩
  · exact ⟨rfl, rfl, fun _ => rfl⟩

/-- A live generate that does not twist leaves the words and the twist counter. -/
theorem generate_fresh_frame {c d : CoreState p} (hl : c.live = true) (hne : indexValue c ≠ some p.n)
    (h : generate c = .next d) : d.words = c.words ∧ d.twists = c.twists := by
  rcases generate_next h with
    ⟨hdead, -⟩ | ⟨-, idx, hi, -, b, _, _, ⟨-, rfl, -⟩ | ⟨hn, -⟩, -, rfl⟩
  · simp [hl] at hdead
  · exact ⟨rfl, rfl⟩
  · simp [indexValue, hi, hn] at hne

@[simp] theorem release_held (c : CoreState p) : (release c).held = c.held := by
  unfold release
  split <;> rfl

@[simp] theorem release_twists (c : CoreState p) : (release c).twists = c.twists := by
  unfold release
  split <;> rfl

theorem release_live_misuse {c : CoreState p} (hl : c.live = true) : (release c).misuse = c.misuse := by
  rw [release_live hl]
  rfl

/-- A generate that answers is the core's generate, on its core. -/
theorem exec_generateOf_next {w : Width} {s t : State} (h : exec (Instr.generateOf w) s = .next t) :
    ∃ c, generate (s.core w) = .next c ∧ t = s.setCore w c :=
  onCore_next_iff.mp (exec_generateOf w s ▸ h)

theorem exec_releaseOf_next {w : Width} {s t : State} (h : exec (Instr.releaseOf w) s = .next t) :
    t = s.setCore w (release (s.core w)) :=
  (Host.Outcome.next.inj (exec_releaseOf w s ▸ h)).symm

/-- Either seeding command that answers has seeded its core. -/
theorem exec_seeding_next {w : Width} {s t : State} {x : Word w.bits}
    (h : exec (Instr.defaultOf w) s = .next t ∨ exec (Instr.createOf w x) s = .next t) :
    ∃ y, t = s.setCore w (seed y (s.core w)) := by
  rw [exec_defaultOf, exec_createOf] at h
  rcases h with h | h
  · exact ⟨_, (Host.Outcome.next.inj h).symm⟩
  · exact ⟨_, (Host.Outcome.next.inj h).symm⟩

/-- Both commands that need a live core answer one that is not live with the error (60_exceptions R141). -/
theorem exec_dead_next {w : Width} {s t : State} (hl : (s.core w).live = false)
    (h : exec (Instr.generateOf w) s = .next t ∨ exec (Instr.releaseOf w) s = .next t) :
    t = s.setCore w (raiseInvalidHandle (s.core w)) := by
  rcases h with h | h
  · obtain ⟨c, hc, rfl⟩ := exec_generateOf_next h
    rw [Host.Outcome.next.inj ((generate_dead hl).symm.trans hc)]
  · rw [exec_releaseOf_next h, release_dead hl]

theorem exec_generateOf_live_frame {w : Width} {s t : State} (hl : (s.core w).live = true)
    (h : exec (Instr.generateOf w) s = .next t) :
    (t.core w).live = (s.core w).live ∧ (t.core w).misuse = (s.core w).misuse ∧ RestUnchanged w s t := by
  obtain ⟨c, hc, rfl⟩ := exec_generateOf_next h
  obtain ⟨hheld, hlive, hmisuse⟩ := generate_frame hc
  have hrest := restUnchanged_setCore hheld
  rw [core_setCore]
  exact ⟨hlive, hmisuse hl, hrest⟩

/-- Settles O40, a row of the access table at a time. -/
theorem frameOfTheCommands : Obligations.FrameOfTheCommands := by
  intro w s t
  refine ⟨?freshGenerate, ?liveGenerate, ?liveRelease, ?dead, ?seeding⟩
  case freshGenerate =>
    intro hl hne h
    obtain ⟨hlive, hmisuse, hrest⟩ := exec_generateOf_live_frame hl h
    obtain ⟨c, hc, rfl⟩ := exec_generateOf_next h
    obtain ⟨hwords, htwists⟩ := generate_fresh_frame hl hne hc
    rw [core_setCore] at hlive hmisuse ⊢
    exact ⟨hwords, hlive, htwists, hmisuse, hrest⟩
  case liveGenerate => exact exec_generateOf_live_frame
  case liveRelease =>
    intro hl h
    obtain rfl := exec_releaseOf_next h
    have hrest := restUnchanged_setCore (release_held (s.core w))
    rw [core_setCore]
    exact ⟨release_twists _, release_live_misuse hl, hrest⟩
  case dead =>
    intro hl h
    obtain rfl := exec_dead_next hl h
    have hrest := restUnchanged_setCore (raiseInvalidHandle_held (s.core w))
    rw [core_setCore]
    exact ⟨⟨rfl, rfl, rfl⟩, rfl, hrest⟩
  case seeding =>
    intro x h
    obtain ⟨y, rfl⟩ := exec_seeding_next h
    have hrest := restUnchanged_setCore (seed_held y (s.core w))
    rw [core_setCore]
    exact ⟨rfl, hrest⟩

/-! ### A placed command word (the model's choice of log entry 9) -/

/-- A placed command is accepted by the next step: no response waits and no other command is held. -/
theorem step_placeCmd (w : Width) (cmd : Cmd w.bits) (s : State) :
    step (placeCmd w cmd s) = exec (decodeCmd w cmd) (s.setCore w { s.core w with rsp := none, held := none }) := by
  have hcore : (placeCmd w cmd s).core w = { s.core w with rsp := none, held := none } := by
    simp [placeCmd]
  have hhost : (placeCmd w cmd s).host = moveOn w (presentPins cmd) :: s.host := rfl
  rw [step_move hhost, moment_accept rfl rfl (by simp [hcore, handshakeBroken]) (by simp [hcore]) rfl]
  congr 1
  cases w <;> rfl

theorem decodePacked_ok {w : Width} {word : Nat} {i : Instr} (h : decodePacked w word = .ok i) :
    word < 2 ^ (w.bits + 2) ∧ i = decodeCmd w (Cmd.unpack (BitVec.ofNat (w.bits + 2) word)) := by
  unfold decodePacked at h
  split at h
  · next hlt => exact ⟨hlt, (Except.ok.inj h).symm⟩
  · cases h

theorem decodeTableWord_some {nbits word : Nat} {i : Instr} (h : decodeTableWord nbits word = some i) :
    decodePacked (tableWidth nbits) word = .ok i := by
  unfold decodeTableWord at h
  split at h
  · next heq => rw [heq, Option.some.inj h]
  · cases h

theorem step_placeWord {w : Width} {word : Nat} {i : Instr} (h : decodePacked w word = .ok i) (s : State) :
    step (placeWord w word s) = exec i (s.setCore i.width { s.core i.width with rsp := none, held := none }) := by
  obtain ⟨hlt, hi⟩ := decodePacked_ok h
  have hw : i.width = w := by rw [hi, decodeCmd_width]
  subst hw
  rw [placeWord, if_pos hlt, step_placeCmd, ← hi]

/-- Settles O11. -/
theorem placedWordIsRunByTheNextStep : Obligations.PlacedWordIsRunByTheNextStep := by
  intro s nbits word i h
  exact step_placeWord (decodeTableWord_some h) s

end Sys2Proof.Machine
end

section
/-! PROOFS of family 20_memory: sessions are answered and sequential, the handshake carries a transaction, refusals, and the
idempotency of the commands (20_memory R45 to R49). -/

namespace Sys2Proof.Machine

variable {W : Nat} {p : Params W}

/-! ### Every command responds (30_encoding R61, R64) -/

/-- The core of width `w` was `c` and a command took it to `d`: a response that a core can produce stands on the port, and
the command the host holds is untouched. -/
def Answered (c d : CoreState p) : Prop :=
  (∃ r, d.rsp = some r ∧ statusProduced r.status = true) ∧ d.held = c.held

theorem seed_answered (x : Word W) (c : CoreState p) : Answered c (seed x c) := ⟨⟨_, rfl, rfl⟩, rfl⟩

theorem raiseInvalidHandle_answered (c : CoreState p) : Answered c (raiseInvalidHandle c) := ⟨⟨_, rfl, rfl⟩, rfl⟩

theorem release_answered (c : CoreState p) : Answered c (release c) := by
  cases hl : c.live with
  | false => rw [release_dead hl]; exact raiseInvalidHandle_answered c
  | true => rw [release_live hl]; exact ⟨⟨_, rfl, rfl⟩, rfl⟩

theorem generate_answered {c d : CoreState p} (h : generate c = .next d) : Answered c d := by
  refine ⟨?_, (generate_frame h).1⟩
  rcases generate_next h with ⟨-, rfl⟩ | ⟨-, _, -, -, _, _, _, -, -, rfl⟩
  · exact ⟨_, rfl, rfl⟩
  · exact ⟨_, rfl, rfl⟩

theorem coreMeaning_answered {i : Instr} {c d : CoreState (params i.width)} (h : coreMeaning i c = .next d) :
    Answered c d := by
  cases i with
  | generate32 => exact generate_answered h
  | generate64 => exact generate_answered h
  | release32 => cases h; exact release_answered c
  | release64 => cases h; exact release_answered c
  | default32 => cases h; exact seed_answered _ c
  | default64 => cases h; exact seed_answered _ c
  | create32 x => cases h; exact seed_answered x c
  | create64 x => cases h; exact seed_answered x c

theorem exec_answered {i : Instr} {w : Width} (hw : i.width = w) {s t : State} (h : exec i s = .next t) :
    Answered (s.core w) (t.core w) := by
  subst hw
  obtain ⟨c, hc, rfl⟩ := exec_next h
  rw [core_setCore]
  exact coreMeaning_answered hc

/-- A command that answers a next state is a transaction that is carried out. -/
theorem transact_of_exec {i : Instr} {s t : State} (h : exec i s = .next t) :
    ∃ r, transact i s = some (replyOf i.width r, takeResponse i.width t) := by
  obtain ⟨⟨r, hr, -⟩, -⟩ := exec_answered rfl h
  exact ⟨r, transact_eq rfl h hr⟩

/-! ### Sessions (R47) -/

/-- A session is its first transaction and the session of the rest. -/
theorem session_cons (i : Instr) (is : List Instr) (s : State) :
    session (i :: is) s =
      (transact i s).bind fun a => (session is a.2).map fun b => (a.1 :: b.1, b.2) := by
  simp only [session]
  cases transact i s with
  | none => rfl
  | some a => cases h : session is a.2 <;> simp [h]

theorem takeResponse_inv {s : State} (hs : s.Inv) (w : Width) : (takeResponse w s).Inv :=
  setCore_inv hs (((inv_iff s).mp hs w).of_sameEngine ⟨rfl, rfl, rfl⟩ (by simp))

/-- Under the invariant every transaction is carried out and keeps the invariant. -/
theorem transact_inv (i : Instr) {s : State} (hs : s.Inv) : ∃ r t, transact i s = some (r, t) ∧ t.Inv := by
  obtain ⟨t, ht, hinv⟩ := exec_inv i hs
  obtain ⟨r, hr⟩ := transact_of_exec ht
  exact ⟨_, _, hr, takeResponse_inv hinv _⟩

/-- Settles O21, by induction on the list of commands. -/
theorem everySessionIsAnswered : Obligations.EverySessionIsAnswered := by
  intro is
  induction is with
  | nil => exact fun s hs => ⟨[], s, rfl, rfl, hs⟩
  | cons i is ih =>
    intro s hs
    obtain ⟨r, t, htransact, ht⟩ := transact_inv i hs
    obtain ⟨rs, u, hsession, hlen, hu⟩ := ih t ht
    exact ⟨r :: rs, u, by simp [session_cons, htransact, hsession], by simp [hlen], hu⟩

/-! ### Refusals (R49, 70_reset_and_hazards R163) -/

/-- A moment is refused for two hosts, or else for a changed command; the command it may accept is not refused. -/
theorem moment_refused_iff {w : Width} {pins : Pins w.bits} {s : State} {r : Refusal} :
    moment w pins s = .refused r ↔
      (r = .sharedPort ∧ pins.secondHost = true) ∨
      (r = .commandChanged ∧ pins.secondHost = false ∧ handshakeBroken (s.core w) pins = true) := by
  unfold moment
  rcases react_cases (s.core w) pins with ⟨hr, h1⟩ | ⟨h1, ⟨hr, h2⟩ | ⟨h2, ⟨hr, -⟩ |
      ⟨-, ⟨_, -, -, ⟨hr, -⟩ | ⟨hr, -⟩⟩ | ⟨hr, -⟩ | ⟨hr, -⟩⟩⟩⟩ <;> simp only [hr, h1]
  case inl => simp [eq_comm (b := r)]
  all_goals simp [h2, eq_comm (b := r), exec_not_refused]

/-- Settles O13: a step is refused exactly where the moment of its next move is. -/
theorem refusedExactlyWhenHostBreaksContract : Obligations.RefusedExactlyWhenHostBreaksContract := by
  intro s r
  constructor
  · intro h
    rcases host_cases s with hidle | ⟨w, pins, rest, hmove⟩
    · rw [step_idle hidle] at h
      cases h
    · rw [step_move hmove, moment_refused_iff, handshakeBroken_iff, core_withHost] at h
      exact ⟨w, pins, rest, hmove, h⟩
  · rintro ⟨w, pins, rest, hmove, h⟩
    rwa [step_move hmove, moment_refused_iff, handshakeBroken_iff, core_withHost]

/-! ### The handshake of one transaction (R45) -/

/-- No response waits on the core's port and the host holds no command. -/
abbrev PortFree (c : CoreState p) : Prop := c.rsp = none ∧ c.held = none

theorem withHost_self {s : State} {h : List HostMove} (hh : s.host = h) : { s with host := h } = s := by
  subst hh
  rfl

theorem takeResponse_host (w : Width) (s : State) : (takeResponse w s).host = s.host := setCore_host _ _ _

theorem setCore_withHost (w : Width) (s : State) (h : List HostMove) (c : CoreState (params w)) :
    ({ s with host := h } : State).setCore w c = { s.setCore w c with host := h } := by
  cases w <;> rfl

theorem takeResponse_withHost (w : Width) (s : State) (h : List HostMove) :
    takeResponse w { s with host := h } = { takeResponse w s with host := h } := by
  rw [takeResponse, core_withHost, setCore_withHost, takeResponse]

/-- A command presented on a free port is run by the step. -/
theorem step_present {w : Width} {cmd : Cmd w.bits} {s : State} {rest : List HostMove}
    (hhost : s.host = moveOn w (presentPins cmd) :: rest) (hfree : PortFree (s.core w)) :
    step s = exec (decodeCmd w cmd) { s with host := rest } := by
  obtain ⟨hrsp, hheld⟩ := hfree
  have haccept : acceptCore (s.core w) = s.core w := by rw [acceptCore, ← hheld]
  rw [step_move hhost, moment_accept rfl rfl (by simp [handshakeBroken, hheld]) (by simpa using hrsp) rfl,
    core_withHost, haccept, withHost_setCore_core]
  rfl

theorem react_take {c : CoreState p} {r : Response W} (hr : c.rsp = some r) (hp : statusProduced r.status = true)
    (hheld : c.held = none) : react c (takePins W) = .deliver := by
  simp [react, takePins, handshakeBroken, hheld, hr, hp]

theorem deliverCore_take {c : CoreState p} (hheld : c.held = none) :
    deliverCore c (takePins W) = { c with rsp := none } := by
  rw [deliverCore, waitCore, presented, takePins, if_neg Bool.false_ne_true, ← hheld]

theorem moment_take {w : Width} {s : State} {r : Response w.bits} (hr : (s.core w).rsp = some r)
    (hp : statusProduced r.status = true) (hheld : (s.core w).held = none) :
    moment w (takePins w.bits) s = .next (takeResponse w s) := by
  rw [moment, react_take hr hp hheld, takeResponse, ← deliverCore_take hheld]

/-- Taking a response that waits delivers it, and the step leads to the core without it. -/
theorem step_take {w : Width} {s : State} {rest : List HostMove} {r : Response w.bits}
    (hhost : s.host = moveOn w (takePins w.bits) :: rest) (hr : (s.core w).rsp = some r)
    (hp : statusProduced r.status = true) (hheld : (s.core w).held = none) :
    delivered s = some (replyOf w r) ∧ step s = .next (takeResponse w { s with host := rest }) := by
  constructor
  · rw [delivered_move hhost, deliveredOn, react_take hr hp hheld, hr]
    rfl
  · rw [step_move hhost, moment_take (by rwa [core_withHost]) hp (by rwa [core_withHost])]

/-- Settles O17: the present move is the command's exec, whose response the take move delivers. -/
theorem handshakeCarriesOneTransaction : Obligations.HandshakeCarriesOneTransaction := by
  intro w cmd s t rest r hhost hrsp hheld h
  rw [decode_presentedOn] at h
  have hw := decodeCmd_width w cmd
  have hpresent := step_present hhost ⟨hrsp, hheld⟩
  generalize decodeCmd w cmd = i at h hw hpresent
  subst hw
  obtain ⟨t', q, hexec, hq, rfl, rfl⟩ := transact_some h
  obtain ⟨⟨q', hq', hproduced⟩, hheld'⟩ := exec_answered rfl hexec
  obtain rfl : q' = q := Option.some.inj (hq'.symm.trans hq)
  have hhost' : t'.host = rest := exec_host hexec
  have hnone : (t'.core i.width).held = none := by rw [hheld', core_withHost, hheld]
  have hstep := hpresent.trans
    (exec_withHost (s := { s with host := rest }) (h := moveOn i.width (takePins i.width.bits) :: rest) hexec)
  obtain ⟨hdelivered, htake⟩ := step_take
    (s := { t' with host := moveOn i.width (takePins i.width.bits) :: rest }) (rest := rest) rfl
    (by rwa [core_withHost]) hproduced (by rwa [core_withHost])
  exact ⟨_, q', hstep, by rwa [core_withHost], rfl, hdelivered, htake.trans (by rw [withHost_self hhost'])⟩

/-! ### The machine's run of a list of commands (R47) -/

theorem run_of_not_next {s : State} (h : ∀ t, step s ≠ .next t) (k : Nat) : run (k + 1) s = none := by
  cases hs : step s with
  | next t => exact absurd hs (h t)
  | fault f => simp [run, hs]
  | refused r => simp [run, hs]

/-- The two steps of a command's moves are its transaction: they deliver its reply alone, and stop where it stops. -/
theorem run_transactionMoves (i : Instr) {s : State} {rest : List HostMove} (hhost : s.host = transactionMoves i ++ rest)
    (hfree : PortFree (s.core i.width)) :
    run 2 s = (transact i { s with host := rest }).map fun a => ([a.1], a.2) := by
  obtain ⟨cmd, hcmd, hmoves⟩ := transactionMoves_eq i
  rw [hmoves] at hhost
  cases h : transact i { s with host := rest } with
  | none =>
    refine run_of_not_next (fun u hu => ?_) 1
    rw [step_present hhost hfree, hcmd] at hu
    obtain ⟨r, hr⟩ := transact_of_exec (exec_withHost (h := rest) hu)
    exact absurd (h.symm.trans hr) (Option.some_ne_none _).symm
  | some a =>
    obtain ⟨reply, t⟩ := a
    obtain ⟨u, -, hpresent, -, -, hdelivered, htake⟩ := handshakeCarriesOneTransaction i.width cmd s t rest reply hhost
      hfree.1 hfree.2 (by rwa [decode_presentedOn, hcmd])
    have hnone : delivered s = none := (delivered_move hhost).trans (deliveredOn_none hfree.1)
    simp [run_succ hpresent, run_succ htake, hnone, hdelivered]

/-- A transaction replies from the core of its command, and leaves the host's moves and free ports as they were. -/
theorem transact_keeps_ports {i : Instr} {s t : State} {r : Reply} (h : transact i s = some (r, t))
    (hfree : ∀ w, PortFree (s.core w)) :
    r.width = i.width ∧ t.host = s.host ∧ ∀ w, PortFree (t.core w) := by
  obtain ⟨t', q, hexec, -, rfl, rfl⟩ := transact_some h
  refine ⟨replyOf_width _ q, (takeResponse_host _ _).trans (exec_host hexec), fun w => ?_⟩
  by_cases hw : w = i.width
  · subst hw
    rw [takeResponse, core_setCore]
    exact ⟨rfl, (exec_answered rfl hexec).2.trans (hfree _).2⟩
  · rw [takeResponse, core_setCore_ne hw, exec_other_core hexec hw]
    exact hfree w

theorem session_keeps_ports {is : List Instr} {s t : State} {rs : List Reply} (h : session is s = some (rs, t))
    (hfree : ∀ w, PortFree (s.core w)) :
    rs.map Reply.width = is.map Instr.width ∧ t.host = s.host ∧ ∀ w, PortFree (t.core w) := by
  induction is generalizing s rs with
  | nil =>
    obtain ⟨rfl, rfl⟩ : [] = rs ∧ s = t := by simpa [session] using h
    exact ⟨rfl, rfl, hfree⟩
  | cons i is ih =>
    rw [session_cons, Option.bind_eq_some_iff] at h
    obtain ⟨⟨r, s'⟩, htransact, h⟩ := h
    obtain ⟨⟨rs', t'⟩, hsession, h⟩ := Option.map_eq_some_iff.mp h
    obtain ⟨rfl, rfl⟩ : r :: rs' = rs ∧ t' = t := by simpa using h
    obtain ⟨hwidth, hhost, hfree'⟩ := transact_keeps_ports htransact hfree
    obtain ⟨hwidths, hhost', hfree''⟩ := ih hsession hfree'
    exact ⟨by simp [hwidth, hwidths], hhost'.trans hhost, hfree''⟩

/-- A transaction reads and writes none of the host's moves. -/
theorem transact_withHost (i : Instr) (s : State) (moves : List HostMove) :
    transact i { s with host := moves } = (transact i s).map fun a => (a.1, { a.2 with host := moves }) := by
  simp only [transact, exec_eq_onCore, onCore, core_withHost]
  cases coreMeaning i (s.core i.width) with
  | fault f => rfl
  | refused r => rfl
  | next c =>
    simp only [setCore_withHost, takeResponse_withHost, core_withHost, Option.map_map]
    rfl

/-- On free ports the machine's steps over the moves of a list of commands are its session. -/
theorem run_programMoves (is : List Instr) {s : State} {rest : List HostMove} (hhost : s.host = programMoves is ++ rest)
    (hfree : ∀ w, PortFree (s.core w)) : run (2 * is.length) s = session is { s with host := rest } := by
  induction is generalizing s with
  | nil =>
    rw [withHost_self (s := s) (h := rest) hhost]
    rfl
  | cons i is ih =>
    rw [programMoves_cons, List.append_assoc] at hhost
    rw [List.length_cons, Nat.mul_succ, Nat.add_comm, run_add, run_transactionMoves i hhost (hfree _), session_cons]
    rw [transact_withHost i s (programMoves is ++ rest), transact_withHost i s rest]
    cases h : transact i s with
    | none => rfl
    | some a =>
      obtain ⟨-, -, hfree'⟩ := transact_keeps_ports h hfree
      have hrun := ih (s := { a.2 with host := programMoves is ++ rest }) rfl fun w => by simpa using hfree' w
      simp [hrun]

/-- Settles O45: the run is the session, which is answered under the invariant. -/
theorem sessionsAreSequential : Obligations.SessionsAreSequential := by
  refine ⟨?runIsSession, ?replies, ?continues, ?answered⟩
  case runIsSession => exact fun is s rest hhost hfree => run_programMoves is hhost hfree
  case replies =>
    intro is s t rest rs hhost hfree hrun
    rw [run_programMoves is hhost hfree] at hrun
    exact session_keeps_ports hrun fun w => by simpa using hfree w
  case continues =>
    intro is js s t u rest rs qs hhost hfree hrun hrun'
    have hboth : s.host = programMoves (is ++ js) ++ rest := by
      rw [programMoves_append, List.append_assoc, hhost]
    rw [← run_programMoves (is ++ js) hboth hfree, List.length_append, Nat.mul_add, run_add, hrun]
    simp [hrun']
  case answered =>
    intro is s rest hs hhost hfree
    obtain ⟨rs, t, hsession, -, -⟩ := everySessionIsAnswered is _ (withHost_inv hs rest)
    exact ⟨rs, t, (run_programMoves is hhost hfree).trans hsession⟩

/-! ### Idempotency (R46) -/

/-- Reseeding a core that the same seed has seeded changes nothing. -/
theorem seed_seed (x : Word W) (c : CoreState p) : seed x (seed x c) = seed x c := rfl

/-- A released core is not live, be the release answered OK or with the error. -/
theorem release_not_live (c : CoreState p) : (release c).live = false := by
  cases hl : c.live with
  | false => rw [release_dead hl]; exact hl
  | true => rw [release_live hl]; rfl

theorem indexValue_of_index {c : CoreState p} {idx : BitVec p.idxBits} (h : c.index = some idx) :
    indexValue c = some idx.toNat := by
  rw [indexValue, h]
  rfl

/-- The index of a generate that has just twisted. -/
theorem toNat_zero_add_one (hp : ParamsFit p) : ((0 : BitVec p.idxBits) + 1).toNat = 1 := by
  simpa using toNat_index_succ hp (idx := 0) (by simp)

/-- A generate of a live core moves the index: below N to the next one, at N to 1. -/
theorem generate_moves_index (hp : ParamsFit p) {c d : CoreState p} (hl : c.live = true) (h : generate c = .next d) :
    indexValue d ≠ indexValue c := by
  have htwo := hp.twoWords
  have hone := toNat_zero_add_one hp
  rcases generate_next h with
    ⟨hdead, -⟩ | ⟨-, idx, hi, hle, b, idx', _, ⟨-, rfl, rfl⟩ | ⟨hn, rfl, _, -, rfl⟩, -, rfl⟩
  · simp [hl] at hdead
  · have hsucc := toNat_index_succ hp (idx := idx') (by omega)
    rw [indexValue_of_index (idx := idx' + 1) rfl, indexValue_of_index hi, ne_eq, Option.some.injEq]
    omega
  · rw [indexValue_of_index (idx := 0 + 1) rfl, indexValue_of_index hi, ne_eq, Option.some.injEq]
    omega

theorem generateOf_width (w : Width) : (Instr.generateOf w).width = w := by cases w <;> rfl

theorem createOf_width (w : Width) (x : Word w.bits) : (Instr.createOf w x).width = w := by cases w <;> rfl

/-- The core's generate is the command's, on its core. -/
theorem exec_generateOf_of_generate {w : Width} {s : State} {c : CoreState (params w)}
    (h : generate (s.core w) = .next c) : exec (Instr.generateOf w) s = .next (s.setCore w c) :=
  (exec_generateOf w s).trans (onCore_next_iff.mpr ⟨c, h, rfl⟩)

/-- A generate below N responds with the word at the index, and moves the index on by one over the same words. -/
theorem exec_generateOf_fresh {w : Width} {s : State} {i : Nat} {y : Word w.bits} (hl : (s.core w).live = true)
    (hi : indexValue (s.core w) = some i) (hlt : i < (params w).n) (hy : readWord (s.core w).words i = some y) :
    ∃ t, exec (Instr.generateOf w) s = .next t ∧ (t.core w).live = true ∧ indexValue (t.core w) = some (i + 1) ∧
      (t.core w).words = (s.core w).words ∧ (t.core w).rsp = some ⟨.ok, temper (params w) y⟩ := by
  obtain ⟨idx, hidx, rfl⟩ := indexValue_eq_some hi
  have hsucc := toNat_index_succ (params_fit w) (Nat.le_of_lt hlt)
  refine ⟨_, exec_generateOf_of_generate (generate_fresh hl hidx hlt hy), ?_⟩
  rw [core_setCore]
  exact ⟨hl, congrArg some hsucc, rfl, rfl⟩

/-! ### The sequence that a seed starts (41_generate R110) -/

theorem RawSequence.twistWord_eq {s : Word W} {x : Nat → Word W} (hx : RawSequence p s x) (j : Nat) :
    x (j + p.n) = twistWord p (x j) (x (j + 1)) (x (j + p.m)) := hx.twisted j

/-- The core is live, its array holds the N words of `x` from the one at `twists * N` on, and the word it extracts next,
after a twist where the index is N, is word `j` of `x`. -/
structure SequenceAt (x : Nat → Word W) (j : Nat) (c : CoreState p) : Prop where
  live : c.live = true
  index : ∃ idx, c.index = some idx ∧ idx.toNat ≤ p.n ∧ c.twists * p.n + idx.toNat = j
  words : ∀ k, k < p.n → readWord c.words k = some (x (c.twists * p.n + k))

/-- A seeded core has the raw sequence's first N words, and twists before its first word. -/
theorem seed_sequenceAt (hp : ParamsFit p) {s : Word W} {x : Nat → Word W} (hx : RawSequence p s x) (c : CoreState p) :
    SequenceAt x p.n (seed s c) where
  live := rfl
  index := ⟨_, rfl, by rw [toNat_ofNat_n hp], by simp [toNat_ofNat_n hp]⟩
  words k hk := by
    have hnext : ∀ k, k + 1 < p.n → x (k + 1) = seedNext p (x k) (k + 1) := fun k hk => hx.seeded (k + 1) (by omega) hk
    rw [seed_words, seed_twists, Nat.zero_mul, Nat.zero_add, readWord_writeAll, seedExpand_eq p s x hx.first hnext k hk]

/-- A generate answers the next word of the sequence, tempered, and moves on by one word, twists included. -/
theorem generate_sequenceAt (hp : ParamsFit p) {s : Word W} {x : Nat → Word W} (hx : RawSequence p s x) {j : Nat}
    {c : CoreState p} (hc : SequenceAt x j c) :
    ∃ d, generate c = .next d ∧ SequenceAt x (j + 1) d ∧ d.rsp = some ⟨.ok, temper p (x j)⟩ := by
  have htwo := hp.twoWords
  obtain ⟨idx, hidx, hle, rfl⟩ := hc.index
  rcases Nat.lt_or_eq_of_le hle with hlt | hn
  · have hsucc := toNat_index_succ hp hle
    exact ⟨_, generate_fresh hc.live hidx hlt (hc.words _ hlt),
      ⟨hc.live, ⟨idx + 1, rfl, by omega, by simp only [respond_twists, hsucc]; omega⟩, hc.words⟩, rfl⟩
  · have hshift : ∀ i, x (c.twists * p.n + (i + p.n)) =
        twistWord p (x (c.twists * p.n + i)) (x (c.twists * p.n + (i + 1))) (x (c.twists * p.n + (i + p.m))) :=
      fun i => by simpa only [Nat.add_assoc] using hx.twistWord_eq (c.twists * p.n + i)
    obtain ⟨ws, htwist, hws⟩ := twist_sequence hp.offsetPos hp.offsetLt hc.words hshift
    have hone := toNat_zero_add_one hp
    have hturn : (c.twists + 1) * p.n = c.twists * p.n + p.n := Nat.succ_mul _ _
    refine ⟨_, generate_stale hc.live hidx hn htwist (hws 0 (by omega)),
      ⟨hc.live, ⟨0 + 1, rfl, by omega, ?_⟩, ?_⟩, ?_⟩
    · simp only [respond_twists, hone, hturn, hn]
    · intro k hk
      simp only [respond_words, respond_twists, hturn, Nat.add_assoc]
      exact hws k hk
    · rw [respond_rsp, hn, Nat.add_zero]

/-- Taking the response does not move a core on the sequence. -/
theorem takeResponse_sequenceAt {w : Width} {x : Nat → Word w.bits} {j : Nat} {s : State}
    (hs : SequenceAt x j (s.core w)) : SequenceAt x j ((takeResponse w s).core w) := by
  rw [takeResponse, core_setCore]
  exact ⟨hs.live, hs.index, hs.words⟩

/-- One generate transaction of a core on the sequence. -/
theorem transact_generate_sequenceAt {w : Width} {seed : Word w.bits} {x : Nat → Word w.bits}
    (hx : RawSequence (params w) seed x) {j : Nat} {s : State} (hs : SequenceAt x j (s.core w)) :
    ∃ t, transact (Instr.generateOf w) s = some (replyOf w ⟨.ok, temper (params w) (x j)⟩, t) ∧
      SequenceAt x (j + 1) (t.core w) := by
  obtain ⟨d, hd, hseq, hrsp⟩ := generate_sequenceAt (params_fit w) hx hs
  refine ⟨_, transact_eq (generateOf_width w) (exec_generateOf_of_generate hd) (by rw [core_setCore, hrsp]),
    takeResponse_sequenceAt (by rwa [core_setCore])⟩

/-- `k` generates reply with the next `k` words of the sequence, tempered, in order. -/
theorem session_generates {w : Width} {seed : Word w.bits} {x : Nat → Word w.bits}
    (hx : RawSequence (params w) seed x) (k : Nat) {j : Nat} {s : State} (hs : SequenceAt x j (s.core w)) :
    ∃ t, session (List.replicate k (Instr.generateOf w)) s =
        some ((List.range' j k).map fun m => replyOf w ⟨.ok, temper (params w) (x m)⟩, t) ∧
      SequenceAt x (j + k) (t.core w) := by
  induction k generalizing j s with
  | zero => exact ⟨s, rfl, hs⟩
  | succ k ih =>
    obtain ⟨t, htransact, ht⟩ := transact_generate_sequenceAt hx hs
    obtain ⟨u, hsession, hu⟩ := ih ht
    refine ⟨u, ?_, by rwa [Nat.add_assoc, Nat.add_comm 1] at hu⟩
    simp [List.replicate_succ, session_cons, htransact, hsession, List.range'_succ]

/-- A create and `k` generates reply (OK, 0) and then words N to N + k - 1 of the raw sequence, tempered. -/
theorem session_seedThenGenerate {w : Width} {seed : Word w.bits} {x : Nat → Word w.bits}
    (hx : RawSequence (params w) seed x) (s : State) (k : Nat) :
    ∃ t, session (seedThenGenerate w seed k) s = some (replyOf w ⟨.ok, 0⟩ ::
        (List.range' (params w).n k).map fun m => replyOf w ⟨.ok, temper (params w) (x m)⟩, t) ∧
      SequenceAt x ((params w).n + k) (t.core w) := by
  have hcreate := transact_eq (createOf_width w seed) (exec_createOf w seed s) (by rw [core_setCore, seed_rsp])
  have hseeded : SequenceAt x (params w).n ((s.setCore w (Machine.seed seed (s.core w))).core w) := by
    rw [core_setCore]
    exact seed_sequenceAt (params_fit w) hx (s.core w)
  obtain ⟨t, hsession, ht⟩ := session_generates hx k (takeResponse_sequenceAt hseeded)
  exact ⟨t, by simp [seedThenGenerate, session_cons, hcreate, hsession], ht⟩

/-- Settles O44: a seeding forgets the core it meets, a release leaves it not live, a generate moves the index, and a create
and its generates follow the raw sequence. -/
theorem idempotencyOfTheCommands : Obligations.IdempotencyOfTheCommands := by
  refine ⟨?create, ?default, ?release, ?index, ?twoGenerates, ?sequence⟩
  case create =>
    intro w x s t h
    rw [exec_createOf] at h ⊢
    obtain rfl := Host.Outcome.next.inj h
    rw [core_setCore, setCore_setCore, seed_seed]
  case default =>
    intro w s t h
    rw [exec_defaultOf] at h ⊢
    obtain rfl := Host.Outcome.next.inj h
    rw [core_setCore, setCore_setCore, seed_seed]
  case release =>
    intro w s t h
    obtain rfl := exec_releaseOf_next h
    refine ⟨_, exec_releaseOf w _, ?_⟩
    rw [core_setCore, core_setCore, release_dead (release_not_live _)]
    exact ⟨rfl, rfl, rfl, rfl⟩
  case index =>
    intro w s t hl h
    obtain ⟨c, hc, rfl⟩ := exec_generateOf_next h
    rw [core_setCore]
    exact generate_moves_index (params_fit w) hl hc
  case twoGenerates =>
    intro w s i y z hl hi hlt hy hz
    obtain ⟨t, hfirst, hl', hi', hwords, hrsp⟩ := exec_generateOf_fresh hl hi (by omega) hy
    obtain ⟨u, hsecond, -, -, -, hrsp'⟩ := exec_generateOf_fresh hl' hi' hlt (by rwa [hwords])
    exact ⟨t, u, hfirst, hsecond, hrsp, hrsp'⟩
  case sequence =>
    intro w seed x hx s k hk
    obtain ⟨k, rfl⟩ : ∃ i, k = i + 1 := ⟨k - 1, by omega⟩
    obtain ⟨t, hsession, -⟩ := session_seedThenGenerate hx s (k + 2)
    exact ⟨_, t, hsession, by simp, by simp⟩

end Sys2Proof.Machine
end

section
/-! PROOFS of family 30_encoding: packed words and opcodes, decoding and encoding each other's inverse, who produces which
status, the response port, and the assembler (30_encoding R60 to R68). -/

namespace Sys2Proof

/-! ### The packed command word (R60) -/

variable {W : Nat}

@[simp] theorem Cmd.unpack_pack (cmd : Cmd W) : Cmd.unpack cmd.pack = cmd := by
  rw [Cmd.unpack, Cmd.pack, BitVec.extractLsb'_append_eq_left, BitVec.extractLsb'_append_eq_right]

@[simp] theorem Cmd.pack_unpack (word : BitVec (W + 2)) : (Cmd.unpack word).pack = word :=
  BitVec.extractLsb'_append_extractLsb'

end Sys2Proof

namespace Sys2Proof.Machine

variable {W : Nat} {p : Params W}

/-! ### The packed response word (R61) -/

theorem statusCode_injective : Function.Injective statusCode := by
  intro a b h
  cases a <;> cases b <;> simp [statusCode] at h ⊢

/-- The packed response word is laid out as a packed command word with the status code in place of the opcode. -/
theorem packResponse_eq_pack (r : Response W) : packResponse r = Cmd.pack ⟨statusCode r.status, r.data⟩ := rfl

theorem packResponse_injective : Function.Injective (packResponse : Response W → BitVec (W + 2)) := by
  intro q r h
  rw [packResponse_eq_pack, packResponse_eq_pack] at h
  obtain ⟨hstatus, hdata⟩ := Cmd.mk.inj (by simpa using congrArg Cmd.unpack h)
  cases q
  cases r
  exact congr (congrArg Response.mk (statusCode_injective hstatus)) hdata

/-- Settles O4: both words are the appended fields, so each field is read back, and codes and data determine a response. -/
theorem packedWordsHoldTheirFields : Obligations.PackedWordsHoldTheirFields := by
  refine ⟨?command, ?word, ?response, ?injective⟩
  case command =>
    exact fun W cmd =>
      ⟨BitVec.extractLsb'_append_eq_right, BitVec.extractLsb'_append_eq_left, Cmd.unpack_pack cmd⟩
  case word => exact fun W word => Cmd.pack_unpack word
  case response => exact fun W r => ⟨BitVec.extractLsb'_append_eq_right, BitVec.extractLsb'_append_eq_left⟩
  case injective => exact fun W q r h => packResponse_injective h

/-! ### The opcode map (R62, R63) -/

@[simp] theorem decodeCmd_default (w : Width) (seed : Word w.bits) : decodeCmd w ⟨0b00#2, seed⟩ = Instr.defaultOf w := rfl
@[simp] theorem decodeCmd_create (w : Width) (seed : Word w.bits) :
    decodeCmd w ⟨0b01#2, seed⟩ = Instr.createOf w seed := rfl
@[simp] theorem decodeCmd_generate (w : Width) (seed : Word w.bits) :
    decodeCmd w ⟨0b10#2, seed⟩ = Instr.generateOf w := rfl
@[simp] theorem decodeCmd_release (w : Width) (seed : Word w.bits) : decodeCmd w ⟨0b11#2, seed⟩ = Instr.releaseOf w := rfl

/-- Settles O2: `decode` is `decodeCmd` on each port, whose four cases are the rows of the map. -/
theorem opcodeSelectsTheCommand : Obligations.OpcodeSelectsTheCommand :=
  ⟨fun seed => ⟨decodeCmd_default .w32 seed, decodeCmd_create .w32 seed, decodeCmd_generate .w32 seed,
      decodeCmd_release .w32 seed⟩,
    fun seed => ⟨decodeCmd_default .w64 seed, decodeCmd_create .w64 seed, decodeCmd_generate .w64 seed,
      decodeCmd_release .w64 seed⟩⟩

/-- The opcode takes one of its four values, each of them defined (R65). -/
theorem opcode_cases (op : BitVec 2) : op = 0b00#2 ∨ op = 0b01#2 ∨ op = 0b10#2 ∨ op = 0b11#2 := by
  decide +revert

theorem decodeCmd_opcode (w : Width) (cmd : Cmd w.bits) : (decodeCmd w cmd).opcode = cmd.op := by
  obtain ⟨op, seed⟩ := cmd
  rcases opcode_cases op with rfl | rfl | rfl | rfl <;> cases w <;> rfl

/-- Encoding a decoded command gives the command back with the seed field written as 0 where it is ignored (R60). -/
theorem encode_decodeCmd (w : Width) (cmd : Cmd w.bits) :
    encode (decodeCmd w cmd) = presentedOn w ⟨cmd.op, if cmd.op = 0b01#2 then cmd.seed else 0⟩ := by
  obtain ⟨op, seed⟩ := cmd
  rcases opcode_cases op with rfl | rfl | rfl | rfl <;> cases w <;> rfl

/-- The encoding of a command stands on the port of its width and decodes to it. -/
theorem encode_eq_presentedOn (i : Instr) :
    ∃ cmd : Cmd i.width.bits, encode i = presentedOn i.width cmd ∧ decodeCmd i.width cmd = i := by
  cases i <;> exact ⟨_, rfl, rfl⟩

/-! ### Packed words as numbers -/

@[simp] theorem presentedOn_word (w : Width) (cmd : Cmd w.bits) : (presentedOn w cmd).word = cmd.pack.toNat := by
  cases w <;> rfl

theorem decodePacked_of_lt {w : Width} {word : Nat} (h : word < 2 ^ (w.bits + 2)) :
    decodePacked w word = .ok (decodeCmd w (Cmd.unpack (BitVec.ofNat (w.bits + 2) word))) :=
  if_pos h

theorem decodePacked_of_le {w : Width} {word : Nat} (h : 2 ^ (w.bits + 2) ≤ word) :
    decodePacked w word = .error .wordTooWide :=
  if_neg (Nat.not_lt.mpr h)

theorem decodePacked_pack (w : Width) (cmd : Cmd w.bits) :
    decodePacked w cmd.pack.toNat = .ok (decodeCmd w cmd) := by
  rw [decodePacked_of_lt cmd.pack.isLt, BitVec.ofNat_toNat, BitVec.setWidth_eq, Cmd.unpack_pack]

theorem tableWidth_wordBits (i : Instr) : tableWidth i.wordBits = i.width := by
  cases i <;> rfl

theorem decode_encode (i : Instr) : decode (encode i) = i := by
  obtain ⟨cmd, hencode, hdecode⟩ := encode_eq_presentedOn i
  rw [hencode, decode_presentedOn, hdecode]

theorem decodePacked_encodeWord (i : Instr) : decodePacked i.width (encodeWord i) = .ok i := by
  obtain ⟨cmd, hencode, hdecode⟩ := encode_eq_presentedOn i
  rw [encodeWord, hencode, presentedOn_word, decodePacked_pack, hdecode]

theorem decodeTableWord_encodeWord (i : Instr) : decodeTableWord i.wordBits (encodeWord i) = some i := by
  rw [decodeTableWord, tableWidth_wordBits, decodePacked_encodeWord]

theorem wellFormed_iff {w : Width} {i : Instr} : i.wellFormed w = true ↔ i.width = w := beq_iff_eq

/-- Settles O6: a command is encoded by a presented command of its port, which unpacks from its own packed word. -/
theorem decodeOfEncodeIsTheCommand : Obligations.DecodeOfEncodeIsTheCommand :=
  fun i => ⟨decode_encode i, decodeTableWord_encodeWord i, wellFormed_iff.mpr rfl⟩

/-- The opcode field of a packed word is the number modulo 4. -/
theorem unpack_op_toNat {word : Nat} (h : word < 2 ^ (W + 2)) :
    (Cmd.unpack (BitVec.ofNat (W + 2) word)).op.toNat = word % 4 := by
  rw [Cmd.unpack, BitVec.extractLsb'_toNat, BitVec.toNat_ofNat, Nat.mod_eq_of_lt h, Nat.shiftRight_zero]

theorem pack_zero_seed_toNat (op : BitVec 2) : (Cmd.pack ⟨op, (0 : Word W)⟩).toNat = op.toNat := by
  simp [Cmd.pack, BitVec.toNat_append]

/-- The packed word of a decoded command: the whole word of a create, the opcode alone of the others. -/
theorem encodeWord_decodeCmd (w : Width) (cmd : Cmd w.bits) :
    encodeWord (decodeCmd w cmd) = if cmd.op = 0b01#2 then cmd.pack.toNat else cmd.op.toNat := by
  rw [encodeWord, encode_decodeCmd, presentedOn_word]
  split
  · rfl
  · exact pack_zero_seed_toNat cmd.op

/-- Settles O7: packing the fields of a word gives the word back, and the opcode alone is the word modulo 4. -/
theorem encodeOfDecodedWord : Obligations.EncodeOfDecodedWord := by
  intro w word i h
  obtain ⟨hlt, rfl⟩ := decodePacked_ok h
  refine ⟨decodeCmd_width w _, ?_⟩
  rw [encodeWord_decodeCmd, decodeCmd_opcode, Cmd.pack_unpack, unpack_op_toNat hlt, BitVec.toNat_ofNat,
    Nat.mod_eq_of_lt hlt]

/-- Settles O8: below the bound a command is decoded. -/
theorem tooWideWordsAreRefused : Obligations.TooWideWordsAreRefused := by
  intro w word
  constructor
  · intro h
    by_contra hle
    rw [decodePacked_of_lt (Nat.not_le.mp hle)] at h
    cases h
  · exact decodePacked_of_le

/-- Settles O9: the listed words are the packed words of those commands. -/
theorem listedWordsDecode : Obligations.ListedWordsDecode :=
  ⟨decodeTableWord_encodeWord (.create32 5489), decodeTableWord_encodeWord .generate32,
    decodeTableWord_encodeWord (.create32 1), decodeTableWord_encodeWord .default64,
    decodeTableWord_encodeWord .release64, decodeTableWord_encodeWord (.create64 0)⟩

/-! ### The response of every command (R61, R64) -/

theorem instr_cases_of_width {i : Instr} {w : Width} (hw : i.width = w) :
    i = Instr.defaultOf w ∨ (∃ x, i = Instr.createOf w x) ∨ i = Instr.generateOf w ∨ i = Instr.releaseOf w := by
  subst hw
  exact instr_cases i

/-- The command is a generate or a release, which need a live core, and its core is not live (60_exceptions R141). -/
abbrev MeetsDeadCore (w : Width) (i : Instr) (s : State) : Prop :=
  (s.core w).live = false ∧ (i = Instr.generateOf w ∨ i = Instr.releaseOf w)

theorem exec_rsp_of_meetsDeadCore {w : Width} {i : Instr} {s t : State} (hdead : MeetsDeadCore w i s)
    (h : exec i s = .next t) : (t.core w).rsp = some ⟨.invalidHandle, 0⟩ := by
  obtain ⟨hlive, hi⟩ := hdead
  obtain rfl := exec_dead_next hlive (hi.imp (· ▸ h) (· ▸ h))
  rw [core_setCore, raiseInvalidHandle_rsp]

theorem generate_live_rsp {c d : CoreState p} (hl : c.live = true) (h : generate c = .next d) :
    ∃ data, d.rsp = some ⟨.ok, data⟩ := by
  rcases generate_next h with ⟨hdead, -⟩ | ⟨-, _, -, -, _, _, _, -, -, rfl⟩
  · simp [hl] at hdead
  · exact ⟨_, rfl⟩

/-- Every other command responds OK, with data 0 unless it is a generate of a live core. -/
theorem exec_rsp_of_not_meetsDeadCore {w : Width} {i : Instr} (hw : i.width = w) {s t : State}
    (hnot : ¬ MeetsDeadCore w i s) (h : exec i s = .next t) :
    ∃ data, (t.core w).rsp = some ⟨.ok, data⟩ ∧ (data ≠ 0 → i = Instr.generateOf w ∧ (s.core w).live = true) := by
  have hlive : i = Instr.generateOf w ∨ i = Instr.releaseOf w → (s.core w).live = true := fun hi =>
    (Bool.not_eq_false _).mp fun hdead => hnot ⟨hdead, hi⟩
  rcases instr_cases_of_width hw with rfl | ⟨x, rfl⟩ | rfl | rfl
  · obtain ⟨y, rfl⟩ := exec_seeding_next (x := 0) (.inl h)
    exact ⟨0, by rw [core_setCore, seed_rsp], fun h0 => absurd rfl h0⟩
  · obtain ⟨y, rfl⟩ := exec_seeding_next (.inr h)
    exact ⟨0, by rw [core_setCore, seed_rsp], fun h0 => absurd rfl h0⟩
  · obtain ⟨c, hc, rfl⟩ := exec_generateOf_next h
    obtain ⟨data, hdata⟩ := generate_live_rsp (hlive (.inl rfl)) hc
    exact ⟨data, by rw [core_setCore, hdata], fun _ => ⟨rfl, hlive (.inl rfl)⟩⟩
  · obtain rfl := exec_releaseOf_next h
    exact ⟨0, by rw [core_setCore, release_live (hlive (.inr rfl)), respond_rsp], fun h0 => absurd rfl h0⟩

/-- Settles O5: a generate or release of a core that is not live has the error response, every other command an OK. -/
theorem statusCodesAndWhoProducesThem : Obligations.StatusCodesAndWhoProducesThem := by
  refine ⟨⟨rfl, rfl, rfl, rfl⟩, fun i s t h => ?_⟩
  by_cases hdead : MeetsDeadCore i.width i s
  · exact ⟨_, exec_rsp_of_meetsDeadCore hdead h, iff_of_true rfl hdead, iff_of_false nofun (not_not_intro hdead)⟩
  · obtain ⟨data, hrsp, -⟩ := exec_rsp_of_not_meetsDeadCore rfl hdead h
    exact ⟨_, hrsp, iff_of_false nofun hdead, iff_of_true rfl hdead⟩

/-- Settles O43: the error has no data, and an OK has data only from a generate of a live core. -/
theorem onlyGenerateReturnsData : Obligations.OnlyGenerateReturnsData := by
  intro i s t h
  by_cases hdead : MeetsDeadCore i.width i s
  · exact ⟨_, exec_rsp_of_meetsDeadCore hdead h, fun h0 => absurd rfl h0⟩
  · obtain ⟨data, hrsp, hdata⟩ := exec_rsp_of_not_meetsDeadCore rfl hdead h
    refine ⟨_, hrsp, fun h0 => ?_⟩
    obtain ⟨hgenerate, hlive⟩ := hdata h0
    exact ⟨hgenerate, rfl, hlive⟩

/-! ### A waiting response (R61, R65) -/

theorem statusProduced_eq_true_iff {st : Status} :
    statusProduced st = true ↔ statusCode st = 0b00#2 ∨ statusCode st = 0b01#2 := by
  cases st <;> decide

theorem statusProduced_eq_false_iff {st : Status} :
    statusProduced st = false ↔ statusCode st = 0b10#2 ∨ statusCode st = 0b11#2 := by
  cases st <;> decide

/-- Where a response waits, and nothing is refused or reset, rsp_ready and the status decide: no command is accepted. -/
theorem react_of_rsp {c : CoreState p} {pins : Pins W} {r : Response W} (hkeeps : HostKeeps c pins)
    (hrst : pins.rst = false) (hrsp : c.rsp = some r) :
    react c pins = if pins.rspReady then (if statusProduced r.status then .deliver else .foreignStatus) else .wait := by
  obtain ⟨hhost, hbroken⟩ := hkeeps
  simp [react, hhost, hbroken, hrst, hrsp]

/-- Settles O3: the opcode is read back off the decoded command, and the two other codes are those of no produced status. -/
theorem noReservedOpcodeAndForeignStatusFaults : Obligations.NoReservedOpcodeAndForeignStatusFaults := by
  refine ⟨?opcodes, ?produced, ?received⟩
  case opcodes =>
    intro w cmd
    rw [decode_presentedOn]
    exact ⟨decodeCmd_opcode w cmd, decodeCmd_width w cmd⟩
  case produced =>
    intro i s t r h hr
    obtain ⟨⟨q, hq, hproduced⟩, -⟩ := exec_answered rfl h
    obtain rfl : q = r := Option.some.inj (hq.symm.trans hr)
    rw [← not_or, ← statusProduced_eq_false_iff, hproduced]
    exact nofun
  case received =>
    intro w s pins rest r hmove hhost hrst hbroken hrsp hready hforeign
    have hreact := react_of_rsp ⟨hhost, hbroken⟩ hrst hrsp
    rw [hready, statusProduced_eq_false_iff.mpr hforeign] at hreact
    rw [step_move hmove, moment, core_withHost, hreact]
    rfl

/-- What a core is after a moment in which a response it can produce waits and rst is 0. -/
def waitingCore (c : CoreState p) (pins : Pins W) : CoreState p :=
  if pins.rspReady then deliverCore c pins else waitCore c pins

@[simp] theorem waitingCore_rsp (c : CoreState p) (pins : Pins W) :
    (waitingCore c pins).rsp = if pins.rspReady = true then none else c.rsp := by
  unfold waitingCore
  split <;> rfl

@[simp] theorem waitingCore_held (c : CoreState p) (pins : Pins W) : (waitingCore c pins).held = presented pins := by
  unfold waitingCore
  split <;> rfl

@[simp] theorem waitingCore_twists (c : CoreState p) (pins : Pins W) : (waitingCore c pins).twists = c.twists := by
  unfold waitingCore
  split <;> rfl

theorem waitingCore_sameEngine (c : CoreState p) (pins : Pins W) : SameEngine (waitingCore c pins) c := by
  unfold waitingCore
  split <;> exact ⟨rfl, rfl, rfl⟩

/-- A step while a response waits delivers it or waits. -/
theorem step_of_rsp {w : Width} {s : State} {pins : Pins w.bits} {rest : List HostMove} {r : Response w.bits}
    (hmove : s.host = moveOn w pins :: rest) (hkeeps : HostKeeps (s.core w) pins) (hrst : pins.rst = false)
    (hrsp : (s.core w).rsp = some r) (hproduced : statusProduced r.status = true) :
    step s = .next (({ s with host := rest } : State).setCore w (waitingCore (s.core w) pins)) := by
  have hreact := react_of_rsp hkeeps hrst hrsp
  rw [hproduced] at hreact
  rw [step_move hmove, moment, core_withHost, hreact, waitingCore]
  cases pins.rspReady <;> rfl

/-- Settles O12: the step leads to the waiting core, fields of which are read off. -/
theorem responseWaitsUntilTaken : Obligations.ResponseWaitsUntilTaken := by
  intro w s pins rest r hmove hkeeps hrst hrsp hcode
  refine ⟨_, step_of_rsp hmove hkeeps hrst hrsp (statusProduced_eq_true_iff.mpr hcode), ?_⟩
  rw [core_setCore, waitingCore_rsp, waitingCore_held, waitingCore_twists, hrsp]
  exact ⟨rfl, rfl, waitingCore_sameEngine _ pins, rfl,
    fun v hv => (core_setCore_ne hv _ _).trans (core_withHost v s rest), setCore_host w _ _⟩

/-! ### The assembler (R67, R68) -/

/-- The commands that a well-formed line stands for on the core of width `w`. -/
def lineCommands (w : Width) : Line → List Instr
  | .blank => []
  | .defaultW _ => [Instr.defaultOf w]
  | .createW _ none => [Instr.defaultOf w]
  | .createW _ (some v) => [Instr.createOf w (BitVec.ofNat w.bits v)]
  | .generateW _ n => List.replicate n (Instr.generateOf w)
  | .releaseW _ => [Instr.releaseOf w]

/-- A well-formed line is expanded to its commands. -/
theorem expandLine_of_wellFormed {w : Width} {ln : Line} (h : ln.wellFormed w = true) :
    expandLine w ln = .ok (lineCommands w ln) := by
  obtain ⟨⟨hsuffix, hseed⟩, hcopies⟩ : (ln.suffixOk w = true ∧ ln.seedOk w = true) ∧ ln.copiesOk = true := by
    simpa [Line.wellFormed] using h
  simp only [expandLine, hsuffix, hseed, hcopies, Bool.true_eq_false, if_false]
  rcases ln with _ | _ | ⟨_, _ | _⟩ | _ | _ <;> rfl

/-- A line of another width is refused for its suffix, whatever else is wrong with it. -/
theorem expandLine_wrongWidth {w : Width} {ln : Line} (h : ln.suffixOk w = false) :
    expandLine w ln = .error .wrongWidth :=
  if_pos h

theorem expandLine_seedTooLarge {w : Width} {ln : Line} (hsuffix : ln.suffixOk w = true) (h : ln.seedOk w = false) :
    expandLine w ln = .error .seedTooLarge := by
  simp [expandLine, hsuffix, h]

theorem expandLine_noCopies {w : Width} {ln : Line} (hsuffix : ln.suffixOk w = true) (hseed : ln.seedOk w = true)
    (h : ln.copiesOk = false) : expandLine w ln = .error .noCopies := by
  simp [expandLine, hsuffix, hseed, h]

/-- The accepted lines are the well-formed ones, and they give their commands. -/
theorem expandLine_ok_iff {w : Width} {ln : Line} {is : List Instr} :
    expandLine w ln = .ok is ↔ ln.wellFormed w = true ∧ is = lineCommands w ln := by
  constructor
  · intro h
    have hwf : ln.wellFormed w = true := by
      cases hsuffix : ln.suffixOk w with
      | false => simp [expandLine_wrongWidth hsuffix] at h
      | true =>
        cases hseed : ln.seedOk w with
        | false => simp [expandLine_seedTooLarge hsuffix hseed] at h
        | true =>
          cases hcopies : ln.copiesOk with
          | false => simp [expandLine_noCopies hsuffix hseed hcopies] at h
          | true => simp [Line.wellFormed, hsuffix, hseed, hcopies]
    exact ⟨hwf, Except.ok.inj (h.symm.trans (expandLine_of_wellFormed hwf))⟩
  · rintro ⟨hwf, rfl⟩
    exact expandLine_of_wellFormed hwf

theorem defaultOf_width (w : Width) : (Instr.defaultOf w).width = w := by cases w <;> rfl

theorem releaseOf_width (w : Width) : (Instr.releaseOf w).width = w := by cases w <;> rfl

theorem lineCommands_width {w : Width} {ln : Line} : ∀ i ∈ lineCommands w ln, i.width = w := by
  rcases ln with _ | _ | ⟨_, _ | v⟩ | ⟨_, n⟩ | _
  case blank => exact nofun
  case defaultW => exact List.forall_mem_singleton.mpr (defaultOf_width w)
  case createW.none => exact List.forall_mem_singleton.mpr (defaultOf_width w)
  case createW.some => exact List.forall_mem_singleton.mpr (createOf_width w _)
  case generateW =>
    intro i hi
    obtain rfl := List.eq_of_mem_replicate hi
    exact generateOf_width w
  case releaseW => exact List.forall_mem_singleton.mpr (releaseOf_width w)

/-- A line whose only check is its suffix. -/
theorem expandLine_suffix_only {w v : Width} {ln : Line} (hsuffix : ln.suffixOk w = (v == w))
    (hseed : ln.seedOk w = true) (hcopies : ln.copiesOk = true) :
    expandLine w ln = if v = w then .ok (lineCommands w ln) else .error .wrongWidth := by
  split
  · next h => exact expandLine_of_wellFormed (by simp [Line.wellFormed, hsuffix, hseed, hcopies, h])
  · next h => exact expandLine_wrongWidth (by simpa [hsuffix] using h)

theorem expandLine_generate {w : Width} {n : Nat} (h : 1 ≤ n) :
    expandLine w (.generateW w n) = .ok (List.replicate n (Instr.generateOf w)) :=
  expandLine_of_wellFormed (by simp [Line.wellFormed, Line.suffixOk, Line.seedOk, Line.copiesOk, h])

/-- Settles O50: both lines are well formed. -/
theorem pseudoInstructionsExpand : Obligations.PseudoInstructionsExpand :=
  ⟨fun w => (expandLine_suffix_only (v := w) rfl rfl rfl).trans (if_pos rfl), fun _ _ h => expandLine_generate h⟩

theorem expandLine_create {w : Width} {x : Nat} (h : x < 2 ^ w.bits) :
    expandLine w (.createW w (some x)) = .ok [Instr.createOf w (BitVec.ofNat w.bits x)] :=
  expandLine_of_wellFormed (by simp [Line.wellFormed, Line.suffixOk, Line.seedOk, Line.copiesOk, h])

theorem assemble_cons_of_expandLine {w : Width} {text : List Char} {ln : Line} (hparse : parseLine text = .ok ln)
    (rest : List (List Char)) :
    assemble w (text :: rest) = (expandLine w ln).bind fun is => (assemble w rest).map (is ++ ·) := by
  simp only [assemble, hparse]
  cases expandLine w ln with
  | error e => rfl
  | ok is => cases h : assemble w rest <;> simp [Except.bind, Except.map]

theorem assemble_cons_of_unreadable {w : Width} {text : List Char} {e : AsmError} (hparse : parseLine text = .error e)
    (rest : List (List Char)) : assemble w (text :: rest) = .error e := by
  simp [assemble, hparse]

/-- Settles O49: the clauses on lines follow from the three checks and `lineCommands`, those on programs from what one line
adds after accepted lines. -/
theorem assemblerAcceptsWellFormedLines : Obligations.AssemblerAcceptsWellFormedLines := by
  refine ⟨?blank, ?default, ?release, ?createDefault, ?createForeign, ?createTooLarge, ?create, ?generateForeign,
    ?noCopies, ?generate, ?accepted, ?width, ?empty, ?program, ?refused, ?unreadable⟩
  case blank => exact fun w => expandLine_of_wellFormed rfl
  case default => exact fun w v => expandLine_suffix_only rfl rfl rfl
  case release => exact fun w v => expandLine_suffix_only rfl rfl rfl
  case createDefault => exact fun w v => expandLine_suffix_only rfl rfl rfl
  case createForeign => exact fun w v x h => expandLine_wrongWidth (beq_false_of_ne h)
  case createTooLarge =>
    exact fun w x h => expandLine_seedTooLarge (beq_self_eq_true w) (decide_eq_false (Nat.not_lt.mpr h))
  case create =>
    exact fun w x h => ⟨BitVec.ofNat w.bits x, by rw [BitVec.toNat_ofNat, Nat.mod_eq_of_lt h], expandLine_create h⟩
  case generateForeign => exact fun w v n h => expandLine_wrongWidth (beq_false_of_ne h)
  case noCopies => exact fun w => expandLine_noCopies (beq_self_eq_true w) rfl rfl
  case generate => exact fun w n h => expandLine_generate h
  case accepted =>
    exact fun w ln => ⟨fun ⟨_, h⟩ => (expandLine_ok_iff.mp h).1, fun h => ⟨_, expandLine_of_wellFormed h⟩⟩
  case width =>
    intro w ln is h i hi
    obtain ⟨-, rfl⟩ := expandLine_ok_iff.mp h
    exact wellFormed_iff.mpr (lineCommands_width i hi)
  case empty => exact fun w => rfl
  case program =>
    intro w text ln before rest is js ks hbefore hparse hexpand hrest
    rw [assemble_append hbefore, assemble_cons_of_expandLine hparse, hexpand, hrest]
    rfl
  case refused =>
    intro w text ln e before rest js hbefore hparse hexpand
    rw [assemble_append hbefore, assemble_cons_of_expandLine hparse, hexpand]
    rfl
  case unreadable =>
    intro w text e before rest js hbefore hparse
    rw [assemble_append hbefore, assemble_cons_of_unreadable hparse]
    rfl

end Sys2Proof.Machine
end

section
/-! PROOFS of family 40_seeding: the words of SeedExpand, the effect of the seeding commands, and what a reseeded core
remembers (40_seeding R80 to R87). -/

namespace Sys2Proof.Machine

variable {W : Nat} {p : Params W}

/-! ### The words of SeedExpand (R80, R87) -/

theorem params_n_pos (w : Width) : 0 < (params w).n := lt_of_lt_of_le two_pos (params_fit w).twoWords

/-- Settles O22: the first word and the step of the list of seeding words. -/
theorem seedExpandFollowsTheRecurrence : Obligations.SeedExpandFollowsTheRecurrence := by
  intro w s
  refine ⟨seedExpand_zero _ s (params_n_pos w), fun i hpos hlt => ?_⟩
  obtain ⟨k, rfl⟩ : ∃ k, i = k + 1 := ⟨i - 1, by omega⟩
  exact seedExpand_step (params w) s k hlt

/-- The words of the seeding recurrence, without an end (R80). -/
def seedSequence (p : Params W) (s : Word W) : Nat → Word W
  | 0 => s
  | k + 1 => seedNext p (seedSequence p s k) (k + 1)

theorem seedExpand_getElem? (s : Word W) {k : Nat} (hk : k < p.n) : (seedExpand p s)[k]? = some (seedSequence p s k) :=
  seedExpand_eq p s (seedSequence p s) rfl (fun _ _ => rfl) k hk

/-- Of the parameters the recurrence reads the multiplier F alone. -/
theorem seedSequence_congr {q : Params W} (hf : p.f = q.f) (s : Word W) (k : Nat) :
    seedSequence p s k = seedSequence q s k := by
  induction k with
  | zero => rfl
  | succ k ih => simp only [seedSequence, seedNext, ih, hf]

theorem seedExpand_injective (hn : 0 < p.n) : Function.Injective (seedExpand p) := by
  intro s s' h
  have hword : (seedExpand p s)[0]? = (seedExpand p s')[0]? := by rw [h]
  rw [seedExpand_zero p s hn, seedExpand_zero p s' hn] at hword
  exact Option.some.inj hword

/-- The recurrence from seed 0 goes on with 1: nothing but the position is added (R87). -/
theorem seedSequence_zero_one (p : Params W) : seedSequence p 0 1 = 1 := by
  simp [seedSequence, seedNext]

/-- No seed gives an all-zero array: word 0 is the seed, and word 1 of seed 0 is 1 (R87). -/
theorem seedSequence_ne_zero (hW : 0 < W) (p : Params W) (s : Word W) : ∃ k < 2, seedSequence p s k ≠ 0 := by
  by_cases hs : s = 0
  · refine ⟨1, by omega, ?_⟩
    rw [hs, seedSequence_zero_one]
    simpa using hW.ne'
  · exact ⟨0, by omega, hs⟩

/-- Settles O26, each fact from the words of the recurrence. -/
theorem seedingFacts : Obligations.SeedingFacts := by
  refine ⟨?wordZero, ?injective, ?seedZero, ?notAllZero, ?forgets, ?dependsOn⟩
  case wordZero =>
    intro w s c
    rw [seed_words, readWord_writeAll, seedExpand_zero _ s (params_n_pos w)]
  case injective => exact fun w s s' h => seedExpand_injective (params_n_pos w) h
  case seedZero =>
    have h32 (k : Nat) (hk : k < 624) := seedExpand_getElem? (p := params .w32) 0 hk
    have h64 (k : Nat) (hk : k < 312) := seedExpand_getElem? (p := params .w64) 0 hk
    rw [h32 1 (by omega), h32 2 (by omega), h64 1 (by omega), h64 2 (by omega)]
    exact ⟨rfl, rfl, rfl, rfl⟩
  case notAllZero =>
    intro w s
    obtain ⟨k, hk, hne⟩ := seedSequence_ne_zero (by cases w <;> decide) (params w) s
    have hkn : k < (params w).n := lt_of_lt_of_le hk (params_fit w).twoWords
    exact ⟨k, hkn, _, seedExpand_getElem? s hkn, hne⟩
  case forgets => exact fun w s c d => rfl
  case dependsOn =>
    intro W p q s k hf hp hq
    rw [seedExpand_getElem? s hp, seedExpand_getElem? s hq, seedSequence_congr hf]

/-! ### The effect of the seeding commands (R81 to R85) -/

theorem seed_logical (hp : ParamsFit p) (s : Word W) (c : CoreState p) : logical (seed s c) = some .exhausted := by
  simp [logical, seed_indexValue hp]

/-- Settles O23: a create sets its core to `seed` of it, which is read field by field. -/
theorem createSeedsTheCore : Obligations.CreateSeedsTheCore := by
  intro w x s
  refine ⟨_, exec_createOf w x s, ?_⟩
  have hrest := restUnchanged_setCore (seed_held x (s.core w))
  rw [core_setCore]
  exact ⟨fun k _ => readWord_writeAll _ k, seed_indexValue (params_fit w) x _, rfl, rfl, rfl,
    seed_logical (params_fit w) x _, hrest, rfl⟩

theorem defaultSeed_eq (w : Width) : (params w).defaultSeed = BitVec.ofNat w.bits 5489 := by cases w <;> rfl

theorem exec_defaultOf_eq_createOf (w : Width) (s : State) :
    exec (Instr.defaultOf w) s = exec (Instr.createOf w (BitVec.ofNat w.bits 5489)) s := by
  rw [exec_defaultOf, exec_createOf, defaultSeed_eq]

/-- Settles O24: a default is a create, whose effect is O23's. -/
theorem defaultSeedsWith5489 : Obligations.DefaultSeedsWith5489 := by
  intro w s
  obtain ⟨t, ht, hwords, hindex, hlive, htwists, hrsp, -, hrest, hmisuse⟩ :=
    createSeedsTheCore w (BitVec.ofNat w.bits 5489) s
  have heq := exec_defaultOf_eq_createOf w s
  exact ⟨heq, t, heq.trans ht, hwords, hindex, hlive, htwists, hrsp, hrest, hmisuse⟩

/-! ### Reseeding (R86) -/

/-- A default or create of the core of width `w` seeds that core, with one seed in all states. -/
theorem exec_seeding {w : Width} {i : Instr} (hi : i = Instr.defaultOf w ∨ ∃ x, i = Instr.createOf w x) :
    i.width = w ∧ ∃ x, ∀ s, exec i s = .next (s.setCore w (seed x (s.core w))) := by
  rcases hi with rfl | ⟨x, rfl⟩
  · exact ⟨defaultOf_width w, _, exec_defaultOf w⟩
  · exact ⟨createOf_width w x, x, exec_createOf w x⟩

/-- The replies of a session whose first transaction is known. -/
theorem session_cons_replies {i : Instr} {s t : State} {r : Reply} (h : transact i s = some (r, t)) (is : List Instr) :
    (session (i :: is) s).map Prod.fst = ((session is t).map Prod.fst).map (r :: ·) := by
  simp [session_cons, h, Function.comp_def]

/-- Settles O25: the cores seeded from `s` and from reset have equal engines, so by O46 they answer alike. -/
theorem reseedingForgetsThePast : Obligations.ReseedingForgetsThePast := by
  intro w i s hi
  obtain ⟨hwidth, x, hexec⟩ := exec_seeding hi
  obtain ⟨hengine, hrsp⟩ := seed_sameEngine x (s.core w) (State.reset.core w)
  refine ⟨⟨_, _, hexec s, hexec State.reset, ?_⟩, fun is his => ?_⟩
  · rw [core_setCore, core_setCore]
    exact ⟨hengine, rfl, hrsp⟩
  · have htransact (u : State) := transact_eq hwidth (hexec u) (by rw [core_setCore, seed_rsp])
    rw [session_cons_replies (htransact s), session_cons_replies (htransact State.reset)]
    congr 1
    refine equalEnginesAnswerAlike.1 w _ _ is ?_ his
    simpa only [takeResponse, core_setCore] using hengine

end Sys2Proof.Machine
end

section
/-! PROOFS of family 41_generate: the twist word by word, the temper and its inverse, the effect of a generate below N and
at N, the logical states, and what a seeding and its generates lead to (41_generate R100 to R111). -/

namespace Sys2Proof.Machine

variable {W : Nat} {p : Params W}

/-! ### The output sequence (R110) -/

/-- Settles O47: the session of a create and its generates ends on the raw sequence, whose words its core holds. -/
theorem outputSequenceClosedForm : Obligations.OutputSequenceClosedForm := by
  intro w seed x hx s k hk
  obtain ⟨k, rfl⟩ : ∃ i, k = i + 1 := ⟨k - 1, by omega⟩
  obtain ⟨t, hsession, ht⟩ := session_seedThenGenerate hx s (k + 1)
  exact ⟨_, t, hsession, by simp, ht.words⟩

/-! ### The twist count (R111) -/

/-- The core is live, meets the invariant, and has been asked for `k` words since it was seeded at index N: each generate
has moved `twists * N + index` on by one. -/
structure GeneratedTimes (k : Nat) (c : CoreState p) : Prop where
  live : c.live = true
  inv : c.Inv
  index : ∃ i, indexValue c = some i ∧ c.twists * p.n + i = p.n + k

theorem seed_generatedTimes (hp : ParamsFit p) (x : Word W) (c : CoreState p) : GeneratedTimes 0 (seed x c) where
  live := rfl
  inv := seed_inv hp x c
  index := ⟨p.n, seed_indexValue hp x c, by simp⟩

/-- A generate counts as one: below N the index is one more, at N the twist count is and the index is 1. -/
theorem generate_generatedTimes (hp : ParamsFit p) {k : Nat} {c : CoreState p} (hc : GeneratedTimes k c) :
    ∃ d, generate c = .next d ∧ GeneratedTimes (k + 1) d := by
  obtain ⟨d, hd, hinv⟩ := generate_inv hp hc.inv
  obtain ⟨-, hlive, -⟩ := generate_frame hd
  refine ⟨d, hd, hlive.trans hc.live, hinv, ?_⟩
  obtain ⟨_, hi, hk⟩ := hc.index
  obtain ⟨idx, hidx, rfl⟩ := indexValue_eq_some hi
  rcases generate_next hd with
    ⟨hdead, -⟩ | ⟨-, _, hidx', hle, b, _, _, ⟨-, rfl, rfl⟩ | ⟨hn, rfl, _, -, rfl⟩, -, rfl⟩
  · simp [hc.live] at hdead
  · obtain rfl := Option.some.inj (hidx.symm.trans hidx')
    have hsucc := toNat_index_succ hp (Nat.not_lt.mp hle)
    exact ⟨_, indexValue_of_index rfl, by simp only [hsucc, respond_twists]; omega⟩
  · obtain rfl := Option.some.inj (hidx.symm.trans hidx')
    have hturn : (c.twists + 1) * p.n = c.twists * p.n + p.n := Nat.succ_mul _ _
    exact ⟨_, indexValue_of_index rfl, by simp only [toNat_zero_add_one hp, respond_twists, hturn]; omega⟩

/-- Taking the response does not count. -/
theorem takeResponse_generatedTimes {w : Width} {k : Nat} {s : State} (hs : GeneratedTimes k (s.core w)) :
    GeneratedTimes k ((takeResponse w s).core w) := by
  rw [takeResponse, core_setCore]
  exact ⟨hs.live, hs.inv.of_sameEngine ⟨rfl, rfl, rfl⟩ (by simp), hs.index⟩

/-- `k` more generates are carried out, and count `k` more. -/
theorem session_generatedTimes {w : Width} (k : Nat) {j : Nat} {s : State} (hs : GeneratedTimes j (s.core w)) :
    ∃ rs t, session (List.replicate k (Instr.generateOf w)) s = some (rs, t) ∧ GeneratedTimes (j + k) (t.core w) := by
  induction k generalizing j s with
  | zero => exact ⟨[], s, rfl, hs⟩
  | succ k ih =>
    obtain ⟨d, hd, hcount⟩ := generate_generatedTimes (params_fit w) hs
    have hexec := exec_generateOf_of_generate hd
    obtain ⟨⟨r, hr, -⟩, -⟩ := exec_answered (generateOf_width w) hexec
    have htransact := transact_eq (generateOf_width w) hexec hr
    obtain ⟨rs, u, hsession, hu⟩ := ih (takeResponse_generatedTimes (s := s.setCore w d) (by rwa [core_setCore]))
    refine ⟨replyOf w r :: rs, u, ?_, by rwa [Nat.add_assoc, Nat.add_comm 1] at hu⟩
    simp [List.replicate_succ, session_cons, htransact, hsession]

/-- A seeding and `k` generates are carried out, and count `k`. -/
theorem session_seeding_generatedTimes {w : Width} {i : Instr}
    (hi : i = Instr.defaultOf w ∨ ∃ seed, i = Instr.createOf w seed) (s : State) (k : Nat) :
    ∃ rs t, session (i :: List.replicate k (Instr.generateOf w)) s = some (rs, t) ∧ GeneratedTimes k (t.core w) := by
  obtain ⟨hwidth, x, hexec⟩ := exec_seeding hi
  have htransact := transact_eq hwidth (hexec s) (by rw [core_setCore, seed_rsp])
  have hseeded := takeResponse_generatedTimes (s := s.setCore w (seed x (s.core w)))
    (by rw [core_setCore]; exact seed_generatedTimes (params_fit w) x _)
  obtain ⟨rs, t, hsession, ht⟩ := session_generatedTimes k hseeded
  exact ⟨replyOf w ⟨.ok, 0⟩ :: rs, t, by simp [session_cons, htransact, hsession], by rwa [Nat.zero_add] at ht⟩

/-- With the index from 1 to N the count of generates determines the twist count. -/
theorem GeneratedTimes.twists_eq {k : Nat} {c : CoreState p} (hc : GeneratedTimes k c) :
    c.twists = (k + p.n - 1) / p.n := by
  obtain ⟨i, hi, hk⟩ := hc.index
  obtain ⟨j, hj, hpos, hle⟩ := hc.inv.liveIndex hc.live
  obtain rfl := Option.some.inj (hi.symm.trans hj)
  have hturn : (c.twists + 1) * p.n = c.twists * p.n + p.n := Nat.succ_mul _ _
  exact (Nat.div_eq_of_lt_le (by omega) (by omega)).symm

/-- From the first generate on the index is what the twists but the last leave of the count. -/
theorem GeneratedTimes.indexValue_eq {k : Nat} {c : CoreState p} (hc : GeneratedTimes k c) (hk : 1 ≤ k) :
    indexValue c = some (k - p.n * (c.twists - 1)) ∧ 1 ≤ k - p.n * (c.twists - 1) ∧
      k - p.n * (c.twists - 1) ≤ p.n := by
  obtain ⟨i, hi, hcount⟩ := hc.index
  obtain ⟨j, hj, hpos, hle⟩ := hc.inv.liveIndex hc.live
  obtain rfl := Option.some.inj (hi.symm.trans hj)
  have hrest : k - p.n * (c.twists - 1) = i := by
    cases htwists : c.twists with
    | zero =>
      rw [htwists, Nat.zero_mul] at hcount
      omega
    | succ m =>
      rw [htwists, Nat.succ_mul, Nat.mul_comm] at hcount
      rw [Nat.succ_sub_one]
      omega
  rw [hrest]
  exact ⟨hi, hpos, hle⟩

/-- Settles O48: the count of generates determines twist count and index. -/
theorem twistCountAndIndex : Obligations.TwistCountAndIndex := by
  intro w i s k hi
  obtain ⟨rs, t, hsession, ht⟩ := session_seeding_generatedTimes hi s k
  have hn := params_n_pos w
  have htwists := ht.twists_eq
  refine ⟨rs, t, hsession, ?seeded, ?generated, ?wholeTurn, ?nextTurn⟩
  case seeded =>
    rintro rfl
    have hzero : (t.core w).twists = 0 := by rw [htwists, Nat.div_eq_of_lt (by omega)]
    obtain ⟨i, hindex, hcount⟩ := ht.index
    rw [hzero, Nat.zero_mul, Nat.zero_add, Nat.add_zero] at hcount
    exact ⟨hzero, hcount ▸ hindex⟩
  case generated =>
    intro hk
    have hindex := ht.indexValue_eq hk
    rw [htwists] at hindex
    exact ⟨htwists, hindex⟩
  case wholeTurn =>
    rintro rfl
    rw [htwists, Nat.div_eq_of_lt_le (k := 1) (by omega) (by omega)]
  case nextTurn =>
    rintro rfl
    rw [htwists, Nat.div_eq_of_lt_le (k := 2) (by omega) (by omega)]

/-! ### The twist word by word (R101) -/

/-- Settles O28: old and new words are the first N words of a sequence and the next N, and in it a new word comes from the
three words N, N - 1 and N - M places before it. -/
theorem twistBands : Obligations.TwistBands := by
  refine ⟨fun w a b c => rfl, fun w ws old hold => ?_⟩
  have hm := (params_fit w).offsetPos
  have hmn := (params_fit w).offsetLt
  have hfirst {j : Nat} (h : j < (params w).n) := twistSequence_lt old hm hmn h
  have hnext := twistSequence_add old hm hmn
  obtain ⟨ws', htwist, hnew⟩ :=
    twist_sequence hm hmn (fun k hk => by rw [hold k hk, hfirst hk]) hnext
  refine ⟨ws', _, htwist, hnew, ?allOld, ?thirdNew, ?last⟩
  case allOld =>
    intro i hi
    rw [Nat.add_comm, hnext, hfirst (by omega), hfirst (by omega), hfirst (by omega)]
  case thirdNew =>
    intro i hlo hhi
    rw [Nat.add_comm, hnext, hfirst (by omega), hfirst (by omega),
      show (params w).n + (i + (params w).m - (params w).n) = i + (params w).m by omega]
  case last =>
    rw [Nat.add_comm, hnext, hfirst (by omega),
      show (params w).n - 1 + 1 = (params w).n + 0 by omega,
      show (params w).n - 1 + (params w).m = (params w).n + ((params w).m - 1) by omega]

/-! ### Facts of the twist (R102) -/

theorem upperMask_bit_zero (w : Width) : (params w).upperMask.getLsbD 0 = false := by
  cases w with
  | w32 => rw [upperMask_w32]; rfl
  | w64 => rw [upperMask_w64]; rfl

theorem lowerMask_bit_zero (w : Width) : (params w).lowerMask.getLsbD 0 = true := by
  cases w with
  | w32 => rw [lowerMask_w32]; rfl
  | w64 => rw [lowerMask_w64]; rfl

/-- The coefficient A has its top bit set, so an odd `y` flips the top bit of the new word. -/
theorem twistCoefficient_top_bit (w : Width) : (params w).a.getLsbD (w.bits - 1) = true := by
  cases w <;> rfl

theorem twistMix_bit_zero (w : Width) (a b : Word w.bits) :
    (twistMix (params w) a b).getLsbD 0 = b.getLsbD 0 := by
  simp [twistMix, upperMask_bit_zero, lowerMask_bit_zero]

/-- A shift right by one clears the top bit. -/
theorem ushiftRight_one_top_bit (y : Word W) : (y >>> 1).getLsbD (W - 1) = false := by
  rw [BitVec.getLsbD_ushiftRight]
  exact BitVec.getLsbD_of_ge y _ (by omega)

theorem twistWord_top_bit (w : Width) (a b c : Word w.bits) :
    (twistWord (params w) a b c).getLsbD (w.bits - 1) = (c.getLsbD (w.bits - 1) ^^ b.getLsbD 0) := by
  rw [twistWord, BitVec.getLsbD_xor, BitVec.getLsbD_xor, ushiftRight_one_top_bit, twistMix_bit_zero, Bool.xor_false]
  cases b.getLsbD 0 with
  | false => simp
  | true => rw [if_pos rfl, twistCoefficient_top_bit]

/-- Of its first operand the twist reads the upper part only. -/
theorem twistWord_congr_upper {a a' : Word W} (h : a &&& p.upperMask = a' &&& p.upperMask) (b c : Word W) :
    twistWord p a b c = twistWord p a' b c := by
  have hmix : twistMix p a b = twistMix p a' b := by rw [twistMix, h, twistMix]
  rw [twistWord, hmix, twistWord]

theorem writeWord_writeWord (ws : Storage p) (i : Nat) (u v : Word W) :
    writeWord (writeWord ws i u) i v = writeWord ws i v := by
  refine storage_ext fun k hk => ?_
  by_cases h : i = k
  · subst h
    rw [readWord_writeWord_same hk, readWord_writeWord_same hk]
  · simp only [readWord_writeWord_ne h]

/-- The first iteration reads the upper part of word 0 alone and writes the whole of it. -/
theorem twistAt_zero_writeWord (hp : ParamsFit p) {ws : Storage p} {a a' : Word W} (ha : readWord ws 0 = some a)
    (hupper : a &&& p.upperMask = a' &&& p.upperMask) : twistAt p 0 (writeWord ws 0 a') = twistAt p 0 ws := by
  have htwo := hp.twoWords
  have hm := hp.offsetPos
  have hone : (0 + 1) % p.n = 1 := Nat.mod_eq_of_lt htwo
  have hoffset : (0 + p.m) % p.n = p.m := by rw [Nat.zero_add, Nat.mod_eq_of_lt hp.offsetLt]
  have hfirst : readWord (writeWord ws 0 a') 0 = some a' := readWord_writeWord_same (by omega) a'
  simp only [twistAt, hone, hoffset, ha, hfirst, readWord_writeWord_ne Nat.zero_ne_one,
    readWord_writeWord_ne hm.ne]
  cases readWord ws 1 with
  | none => rfl
  | some b =>
    cases readWord ws p.m with
    | none => rfl
    | some c => simp only [writeWord_writeWord, twistWord_congr_upper hupper]

/-- Arrays that agree after the first iteration agree after every later one. -/
theorem twistPass_congr {ws ws' : Storage p} (h : twistAt p 0 ws = twistAt p 0 ws') (k : Nat) :
    twistPass p (k + 1) ws = twistPass p (k + 1) ws' := by
  induction k with
  | zero => exact h
  | succ k ih => rw [twistPass_succ, ih, ← twistPass_succ]

theorem twist_congr (hn : 0 < p.n) {ws ws' : Storage p} (h : twistAt p 0 ws = twistAt p 0 ws') :
    twist p ws = twist p ws' := by
  have hpass := twistPass_congr h (p.n - 1)
  rwa [Nat.sub_add_cancel hn] at hpass

/-- Settles O29: the facts of one word bit by bit, and the twist of a changed first word from its first iteration. -/
theorem twistFacts : Obligations.TwistFacts := by
  refine ⟨twistMix_bit_zero, ?topBit, ?firstWord, ?arrayAlone⟩
  case topBit =>
    exact fun w a b c => ⟨ushiftRight_one_top_bit _, twistCoefficient_top_bit w, twistWord_top_bit w a b c⟩
  case firstWord =>
    exact fun w ws a a' ha hupper =>
      twist_congr (params_n_pos w) (twistAt_zero_writeWord (params_fit w) ha hupper)
  case arrayAlone => exact fun w c d h => congrArg _ h

/-! ### The temper (R104, R105) -/

/-- Settles O30: both sides are the four steps, with the constants of R5. -/
theorem temperFormula : Obligations.TemperFormula := ⟨fun _ => rfl, fun _ => rfl⟩

/-- Iterating a map that makes bit `i` agree with `y` once all bits of less depth do gives `y`, from any word, after as many
rounds as there are depths. -/
theorem iterate_eq_of_bits_by_depth {f : Word W → Word W} {y : Word W} {depth : Nat → Nat}
    (hf : ∀ x i, i < W → (∀ j, j < W → depth j < depth i → x.getLsbD j = y.getLsbD j) →
      (f x).getLsbD i = y.getLsbD i)
    {rounds : Nat} (hdepth : ∀ i, i < W → depth i < rounds) (x : Word W) : f^[rounds] x = y := by
  have hbits : ∀ n i, i < W → depth i < n → (f^[n] x).getLsbD i = y.getLsbD i := by
    intro n
    induction n with
    | zero => exact fun i _ h => absurd h (Nat.not_lt_zero _)
    | succ n ih =>
      intro i hi hn
      rw [Function.iterate_succ_apply']
      exact hf _ i hi fun j hj hlt => ih j hj (by omega)
  exact BitVec.eq_of_getLsbD_eq fun i hi => hbits rounds i hi (hdepth i hi)

/-- A right step is undone: bit `i` depends on bit `i + k`, so a bit's depth is how many shifts it is from the top. -/
theorem undoRight_rightStep {k : Nat} (hk : 1 ≤ k) (m y : Word W) :
    undoRight k m (y ^^^ ((y >>> k) &&& m)) = y := by
  refine iterate_eq_of_bits_by_depth (depth := fun i => (W - 1 - i) / k) (fun x i hi hx => ?_) (fun i hi => ?_) _
  · have hbit : x.getLsbD (k + i) = y.getLsbD (k + i) := by
      by_cases hki : k + i < W
      · refine hx (k + i) hki ?_
        rw [show W - 1 - i = W - 1 - (k + i) + k by omega, Nat.add_div_right _ hk]
        omega
      · rw [BitVec.getLsbD_of_ge _ _ (by omega), BitVec.getLsbD_of_ge _ _ (by omega)]
    simp [BitVec.getLsbD_ushiftRight, hbit]
  · rw [show W + k - 1 = W - 1 + k by omega, Nat.add_div_right _ hk]
    exact Nat.lt_succ_of_le (Nat.div_le_div_right (by omega))

/-- A left step is undone: bit `i` depends on bit `i - k`, so a bit's depth is how many shifts it is from bit 0. -/
theorem undoLeft_leftStep {k : Nat} (hk : 1 ≤ k) (m y : Word W) :
    undoLeft k m (y ^^^ ((y <<< k) &&& m)) = y := by
  refine iterate_eq_of_bits_by_depth (depth := fun i => i / k) (fun x i hi hx => ?_) (fun i hi => ?_) _
  · have hbit : k ≤ i → x.getLsbD (i - k) = y.getLsbD (i - k) := by
      intro hki
      refine hx (i - k) (by omega) ?_
      rw [← Nat.sub_add_cancel hki, Nat.add_div_right _ hk, Nat.add_sub_cancel]
      omega
    by_cases hki : k ≤ i
    · simp [BitVec.getLsbD_shiftLeft, hbit hki]
    · simp [BitVec.getLsbD_shiftLeft, Nat.not_le.mp hki]
  · rw [show W + k - 1 = W - 1 + k by omega, Nat.add_div_right _ hk]
    exact Nat.lt_succ_of_le (Nat.div_le_div_right (by omega))

/-- The last step of the temper has no mask, which is the mask of all ones. -/
theorem undoRight_unmaskedStep {k : Nat} (hk : 1 ≤ k) (y : Word W) :
    undoRight k (BitVec.allOnes W) (y ^^^ (y >>> k)) = y := by
  simpa using undoRight_rightStep hk (BitVec.allOnes W) y

theorem temper_zero (p : Params W) : temper p 0 = 0 := by
  simp [temper]

theorem untemper_temper (w : Width) (y : Word w.bits) : untemper (params w) (temper (params w) y) = y := by
  obtain ⟨hu, hs, ht, hl⟩ : 1 ≤ (params w).u ∧ 1 ≤ (params w).s ∧ 1 ≤ (params w).t ∧ 1 ≤ (params w).l := by
    cases w <;> decide
  rw [untemper, temper, undoRight_unmaskedStep hl, undoLeft_leftStep ht, undoLeft_leftStep hs, undoRight_rightStep hu]

theorem temper_injective (w : Width) : Function.Injective (temper (params w)) :=
  Function.LeftInverse.injective (untemper_temper w)

/-- Settles O31: each step is undone, so the inverse temper is a left inverse, and the words are finitely many. -/
theorem temperIsABijection : Obligations.TemperIsABijection :=
  ⟨fun _ => temper_zero _, fun _ _ m y hk => undoRight_rightStep hk m y, fun _ _ m y hk => undoLeft_leftStep hk m y,
    untemper_temper, fun w => Finite.injective_iff_bijective.mp (temper_injective w), fun w _ _ h => temper_injective w h⟩

/-! ### Generate (R103, R106) -/

/-- Settles O32: the command's effect below N, with its frame from the access table. -/
theorem generateBelowNExtracts : Obligations.GenerateBelowNExtracts := by
  intro w s i y hl hi hlt hy
  obtain ⟨t, ht, hlive, hindex, hwords, hrsp⟩ := exec_generateOf_fresh hl hi hlt hy
  have hne : indexValue (s.core w) ≠ some (params w).n := by
    rw [hi, ne_eq, Option.some.injEq]
    omega
  obtain ⟨hfresh, -⟩ := frameOfTheCommands w s t
  obtain ⟨-, -, htwists, hmisuse, hrest⟩ := hfresh hl hne ht
  exact ⟨t, ht, hrsp, hindex, hwords, hlive, htwists, hmisuse, hrest⟩

/-- Settles O33: an array that is all written is twisted, and its first new word is there to be tempered. -/
theorem generateAtNTwistsFirst : Obligations.GenerateAtNTwistsFirst := by
  intro w s hl hi hwritten
  have hp := params_fit w
  obtain ⟨idx, hidx, hn⟩ := indexValue_eq_some hi
  obtain ⟨ws, htwist, hws⟩ := twist_written hp.offsetPos hp.offsetLt hwritten
  obtain ⟨y, hy⟩ := hws 0 (params_n_pos w)
  have hexec := exec_generateOf_of_generate (generate_stale hl hidx hn htwist hy)
  obtain ⟨hlive, hmisuse, hrest⟩ := exec_generateOf_live_frame hl hexec
  refine ⟨_, ws, y, hexec, htwist, ?_⟩
  rw [core_setCore] at hlive hmisuse ⊢
  exact ⟨rfl, hy, rfl, congrArg some (toNat_zero_add_one hp), hl, rfl, hmisuse, hrest⟩

/-- A generate that moves the twist count found the core live at index N, and adds one. -/
theorem generate_twists_ne {c d : CoreState p} (h : generate c = .next d) (hne : d.twists ≠ c.twists) :
    c.live = true ∧ indexValue c = some p.n ∧ d.twists = c.twists + 1 := by
  rcases generate_next h with
    ⟨-, rfl⟩ | ⟨hl, idx, hidx, -, b, _, _, ⟨-, rfl, -⟩ | ⟨hn, -, _, -, rfl⟩, -, rfl⟩
  · exact absurd rfl hne
  · exact absurd rfl hne
  · exact ⟨hl, hn ▸ indexValue_of_index hidx, rfl⟩

/-- Settles O36, command by command of that core; the other core's commands leave the count. -/
theorem twistOnlyInAStaleGenerate : Obligations.TwistOnlyInAStaleGenerate := by
  intro w i s t h hne
  have hw : w = i.width := by
    by_contra hother
    exact hne (congrArg CoreState.twists (exec_other_core h hother))
  rcases instr_cases_of_width hw.symm with rfl | ⟨x, rfl⟩ | rfl | rfl
  · obtain ⟨y, rfl⟩ := exec_seeding_next (x := 0) (.inl h)
    exact .inr ⟨.inl rfl, by rw [core_setCore, seed_twists]⟩
  · obtain ⟨y, rfl⟩ := exec_seeding_next (.inr h)
    exact .inr ⟨.inr ⟨x, rfl⟩, by rw [core_setCore, seed_twists]⟩
  · obtain ⟨c, hc, rfl⟩ := exec_generateOf_next h
    rw [core_setCore] at hne ⊢
    exact .inl ⟨rfl, generate_twists_ne hc hne⟩
  · obtain rfl := exec_releaseOf_next h
    rw [core_setCore, release_twists] at hne
    exact absurd rfl hne

/-! ### The logical states (R109) -/

theorem logical_of_dead {c : CoreState p} (hl : c.live = false) : logical c = some .unseeded := by
  simp [logical, hl]

/-- The logical state of a live core is read off its index (10_state R24). -/
theorem logical_of_live {c : CoreState p} (hl : c.live = true) :
    logical c = (indexValue c).bind fun i =>
      if i = p.n then some .exhausted else if i < p.n then some .fresh else none := by
  rw [logical, if_pos hl]
  cases indexValue c <;> rfl

theorem logical_eq_unseeded_iff {c : CoreState p} : logical c = some .unseeded ↔ c.live = false := by
  cases hl : c.live with
  | false => simp [logical_of_dead hl]
  | true => simp [logical_of_live hl, Option.bind_eq_some_iff, ite_eq_iff]

theorem logical_eq_exhausted_iff {c : CoreState p} :
    logical c = some .exhausted ↔ c.live = true ∧ indexValue c = some p.n := by
  cases hl : c.live with
  | false => simp [logical_of_dead hl]
  | true => simp [logical_of_live hl, Option.bind_eq_some_iff, ite_eq_iff]

theorem logical_eq_fresh_iff {c : CoreState p} :
    logical c = some .fresh ↔ c.live = true ∧ ∃ i, indexValue c = some i ∧ i < p.n := by
  cases hl : c.live with
  | false => simp [logical_of_dead hl]
  | true =>
    have hlt (i : Nat) : ¬ i = p.n ∧ i < p.n ↔ i < p.n := by omega
    simp [logical_of_live hl, Option.bind_eq_some_iff, ite_eq_iff, hlt]

/-- A live core whose index has reached N is EXHAUSTED, and one below N is FRESH (10_state R24). -/
theorem logical_of_index {c : CoreState p} {i : Nat} (hl : c.live = true) (hi : indexValue c = some i)
    (hle : i ≤ p.n) : logical c = if i = p.n then some .exhausted else some .fresh := by
  split
  · next hn => exact logical_eq_exhausted_iff.mpr ⟨hl, hn ▸ hi⟩
  · next hn => exact logical_eq_fresh_iff.mpr ⟨hl, i, hi, by omega⟩

/-- A step with rst = 1 of a host that keeps its contract resets the core, whatever else the host drives (R160). -/
theorem step_reset {w : Width} {s : State} {pins : Pins w.bits} {rest : List HostMove}
    (hmove : s.host = moveOn w pins :: rest) (hkeeps : HostKeeps (s.core w) pins) (hrst : pins.rst = true) :
    step s = .next (({ s with host := rest } : State).setCore w (resetCore (s.core w) pins)) := by
  obtain ⟨hhost, hbroken⟩ := hkeeps
  have hreact : react (s.core w) pins = .reset := by simp [react, hhost, hbroken, hrst]
  rw [step_move hmove, moment, core_withHost, hreact]

/-- Settles O41, a row of the table at a time: each logical state is what it says of live and index. -/
theorem logicalTransitions : Obligations.LogicalTransitions := by
  refine ⟨?seeding, ?unseeded, ?exhausted, ?fresh, ?release, ?reset⟩
  case seeding =>
    intro w s i hi
    obtain ⟨-, x, hexec⟩ := exec_seeding hi
    refine ⟨_, hexec s, ?_⟩
    rw [core_setCore]
    exact ⟨seed_logical (params_fit w) x _, seed_indexValue (params_fit w) x _, rfl⟩
  case unseeded =>
    intro w s i hi hs
    have hdead := logical_eq_unseeded_iff.mp hs
    have hraise : exec i s = .next (s.setCore w (raiseInvalidHandle (s.core w))) := by
      rcases hi with rfl | rfl
      · exact exec_generateOf_of_generate (generate_dead hdead)
      · rw [exec_releaseOf, release_dead hdead]
    refine ⟨_, hraise, ?_⟩
    rw [core_setCore]
    exact ⟨logical_eq_unseeded_iff.mpr hdead, rfl⟩
  case exhausted =>
    intro w s hwritten hs
    obtain ⟨hl, hi⟩ := logical_eq_exhausted_iff.mp hs
    obtain ⟨t, ws, y, ht, -, -, -, hrsp, hone, hlive, htwists, -⟩ := generateAtNTwistsFirst w s hl hi hwritten
    have htwo := (params_fit w).twoWords
    exact ⟨t, y, ht, logical_eq_fresh_iff.mpr ⟨hlive, 1, hone, htwo⟩, hone, htwists, hrsp⟩
  case fresh =>
    intro w s i hwritten hs hi
    obtain ⟨hl, j, hj, hlt⟩ := logical_eq_fresh_iff.mp hs
    obtain rfl : i = j := Option.some.inj (hi.symm.trans hj)
    obtain ⟨y, hy⟩ := hwritten i hlt
    obtain ⟨t, ht, hrsp, hnext, -, hlive, -⟩ := generateBelowNExtracts w s i y hl hi hlt hy
    refine ⟨t, y, ht, hnext, ?_, hrsp⟩
    rw [logical_of_index hlive hnext hlt]
    exact if_congr (by omega) rfl rfl
  case release =>
    intro w s hs
    have hl : (s.core w).live = true :=
      hs.elim (fun h => (logical_eq_exhausted_iff.mp h).1) (fun h => (logical_eq_fresh_iff.mp h).1)
    refine ⟨_, exec_releaseOf w s, ?_⟩
    rw [core_setCore]
    exact ⟨logical_eq_unseeded_iff.mpr (release_not_live _), by rw [release_live hl, respond_rsp]⟩
  case reset =>
    intro w s pins rest hmove hkeeps hrst
    refine ⟨_, step_reset hmove hkeeps hrst, ?_⟩
    rw [core_setCore]
    exact ⟨logical_eq_unseeded_iff.mpr rfl, rfl⟩

end Sys2Proof.Machine
end

section
/-! PROOFS of family 42_release: a core that is not live answers every generate and release with the error, and a release
leaves its core not live (42_release R130 to R132). -/

namespace Sys2Proof.Machine

/-! ### Generates and releases of a core that is not live (R141) -/

/-- The converse of `exec_dead_next`: such a command always answers. -/
theorem exec_of_meetsDeadCore {w : Width} {i : Instr} {s : State} (hdead : MeetsDeadCore w i s) :
    exec i s = .next (s.setCore w (raiseInvalidHandle (s.core w))) := by
  obtain ⟨hlive, rfl | rfl⟩ := hdead
  · exact exec_generateOf_of_generate (generate_dead hlive)
  · rw [exec_releaseOf, release_dead hlive]

theorem transact_of_meetsDeadCore {w : Width} {i : Instr} {s : State} (hdead : MeetsDeadCore w i s) :
    ∃ t, transact i s = some (replyOf w ⟨.invalidHandle, 0⟩, t) ∧ (t.core w).live = false := by
  have hwidth : i.width = w := by
    rcases hdead.2 with rfl | rfl
    · exact generateOf_width w
    · exact releaseOf_width w
  have hrsp : ((s.setCore w (raiseInvalidHandle (s.core w))).core w).rsp = some ⟨.invalidHandle, 0⟩ := by
    rw [core_setCore, raiseInvalidHandle_rsp]
  refine ⟨_, transact_eq hwidth (exec_of_meetsDeadCore hdead) hrsp, ?_⟩
  rw [takeResponse, core_setCore, core_setCore]
  exact hdead.1

/-- The error leaves the core not live, so every command of the list meets it. -/
theorem session_of_dead {w : Width} {is : List Instr} (his : ∀ i ∈ is, i = Instr.generateOf w ∨ i = Instr.releaseOf w)
    {s : State} (hlive : (s.core w).live = false) :
    ∃ u, session is s = some (is.map fun _ => replyOf w ⟨.invalidHandle, 0⟩, u) := by
  induction is generalizing s with
  | nil => exact ⟨s, rfl⟩
  | cons i is ih =>
    obtain ⟨hi, his⟩ := List.forall_mem_cons.mp his
    obtain ⟨t, htransact, ht⟩ := transact_of_meetsDeadCore ⟨hlive, hi⟩
    obtain ⟨u, hsession⟩ := ih his ht
    exact ⟨u, by simp [session_cons, htransact, hsession]⟩

/-! ### Release (R130) -/

/-- Settles O38: the fields of the released core, which is not live, so the error is all that later generates and releases
get. -/
theorem releaseEndsTheInstance : Obligations.ReleaseEndsTheInstance := by
  refine ⟨fun w s hlive => ?live, fun w s hdead => ?dead⟩
  case live =>
    have hrest := restUnchanged_setCore (release_held (s.core w))
    have hlater (is : List Instr) (his : ∀ i ∈ is, i = Instr.generateOf w ∨ i = Instr.releaseOf w) :=
      session_of_dead his (s := s.setCore w (release (s.core w))) (by rw [core_setCore, release_not_live])
    refine ⟨_, exec_releaseOf w s, ?_⟩
    rw [core_setCore]
    refine ⟨?rsp, release_not_live _, ?index, ?words, release_twists _, release_live_misuse hlive, hrest, hlater⟩
    all_goals rw [release_live hlive]
    case rsp => rfl
    case index => rfl
    case words => exact readWord_unwritten
  case dead =>
    refine ⟨_, exec_of_meetsDeadCore ⟨hdead, .inr rfl⟩, ?_⟩
    rw [core_setCore]
    exact ⟨rfl, rfl, rfl, rfl⟩

end Sys2Proof.Machine
end

section
/-! PROOFS of family 60_exceptions: the error of a core that is not live, the commands that never fail, two cores that share
nothing, and the idle core (60_exceptions R141 to R152). -/

namespace Sys2Proof.Machine

variable {W : Nat} {p : Params W}

/-! ### Commands that never fail (R142) -/

/-- Settles O27: a seeding command sets its core to `seed` of it, which responds OK; a live generate extracts below N (O32)
and twists first at N (O33). -/
theorem seedingAndLiveGenerateNeverFail : Obligations.SeedingAndLiveGenerateNeverFail := by
  refine ⟨fun w x s => ⟨⟨_, exec_createOf w x s, ?create⟩, ⟨_, exec_defaultOf w s, ?default⟩⟩,
    fun w s i hlive hindex hle hwritten => ?generate⟩
  case create => rw [core_setCore, seed_rsp]
  case default => rw [core_setCore, seed_rsp]
  case generate =>
    rcases Nat.lt_or_eq_of_le hle with hlt | rfl
    · obtain ⟨y, hy⟩ := hwritten i hlt
      obtain ⟨t, ht, hrsp, -⟩ := generateBelowNExtracts w s i y hlive hindex hlt hy
      exact ⟨t, y, ht, hrsp⟩
    · obtain ⟨t, -, y, ht, -, -, -, hrsp, -⟩ := generateAtNTwistsFirst w s hlive hindex hwritten
      exact ⟨t, y, ht, hrsp⟩

/-! ### The error writes no state (R141) -/

/-- Settles O37: the error is `raiseInvalidHandle` of the core, which keeps its engine; a released core is not live and a
seeded one is. -/
theorem invalidHandleWritesNoState : Obligations.InvalidHandleWritesNoState := by
  refine ⟨fun w i s hi hdead => ?error, fun w => ?reset, fun w s t h => ?release, fun w s => ?seeding⟩
  case error =>
    have hrest := restUnchanged_setCore (raiseInvalidHandle_held (s.core w))
    refine ⟨_, exec_of_meetsDeadCore ⟨hdead, hi⟩, ?_⟩
    rw [core_setCore]
    exact ⟨rfl, ⟨rfl, rfl, rfl⟩, rfl, hrest⟩
  case reset =>
    rw [core_reset]
    rfl
  case release =>
    rw [exec_releaseOf_next h, core_setCore, release_not_live]
  case seeding =>
    have hlive (x : Word w.bits) : ((s.setCore w (seed x (s.core w))).core w).live = true := by
      rw [core_setCore, seed_live]
    exact ⟨⟨_, exec_defaultOf w s, hlive _⟩, fun x => ⟨_, exec_createOf w x s, hlive x⟩⟩

/-! ### The two cores (R150) -/

/-- Updates of different cores commute. -/
theorem setCore_comm {v w : Width} (h : v ≠ w) (s : State) (c : CoreState (params v)) (d : CoreState (params w)) :
    (s.setCore v c).setCore w d = (s.setCore w d).setCore v c := by
  cases v <;> cases w
  case w32.w64 => rfl
  case w64.w32 => rfl
  all_goals exact absurd rfl h

/-- What a command does to its core it does on every state with that core. -/
theorem exec_of_core_eq {i : Instr} {s s' : State} {c : CoreState (params i.width)}
    (hcore : s'.core i.width = s.core i.width) (h : coreMeaning i (s.core i.width) = .next c) :
    exec i s' = .next (s'.setCore i.width c) :=
  exec_of_coreMeaning (hcore ▸ h)

/-- Settles O42: a command is a function of its own core and updates it alone, so the commands commute as their updates
do. -/
theorem coresShareNothing : Obligations.CoresShareNothing := by
  refine ⟨fun i s t h => ⟨fun w => exec_other_core h, exec_host h⟩, fun i s s' t hcore h => ?ownCore,
    fun i j s t u hne hi hj => ?commute⟩
  case ownCore =>
    obtain ⟨c, hc, rfl⟩ := exec_next h
    exact ⟨_, exec_of_core_eq hcore.symm hc, by rw [core_setCore, core_setCore]⟩
  case commute =>
    obtain ⟨c, hc, rfl⟩ := exec_next hi
    obtain ⟨d, hd, rfl⟩ := exec_next hj
    rw [core_setCore_ne hne.symm] at hd
    refine ⟨_, exec_of_coreMeaning hd, ?_⟩
    rw [setCore_comm hne]
    exact exec_of_core_eq (core_setCore_ne hne s d) hc

/-! ### The idle core (R152) -/

/-- A core out of reset waits where no response and no held command is there and the host presents nothing. -/
theorem react_idle {c : CoreState p} {pins : Pins W} (hhost : pins.secondHost = false) (hrst : pins.rst = false)
    (hvalid : pins.cmdValid = false) (hrsp : c.rsp = none) (hheld : c.held = none) : react c pins = .wait := by
  simp [react, handshakeBroken, hhost, hrst, hvalid, hrsp, hheld]

/-- Waiting changes at most the held command, which is none before and after. -/
theorem waitCore_idle {c : CoreState p} {pins : Pins W} (hvalid : pins.cmdValid = false) (hheld : c.held = none) :
    waitCore c pins = c := by
  have hpresented : presented pins = c.held := by simp [presented, hvalid, hheld]
  rw [waitCore, hpresented]

/-- Settles O16: the idle core waits, and waiting holds its state. -/
theorem idleCoreHoldsItsState : Obligations.IdleCoreHoldsItsState := by
  refine ⟨fun s => step_idle, fun w s pins rest hmove hhost hrst hvalid hrsp hheld => ?_⟩
  rw [step_move hmove, moment, core_withHost, react_idle hhost hrst hvalid hrsp hheld,
    waitCore_idle hvalid hheld, withHost_setCore_core]

end Sys2Proof.Machine
end

section
/-! PROOFS of family 70_reset_and_hazards: the acceptance of a presented command, and the moment of reset
(70_reset_and_hazards R160, R163). -/

namespace Sys2Proof.Machine

/-! ### Acceptance (R163) -/

/-- Settles O10: where nothing stands in the way, the moment accepts, and `acceptCore` lets the held command go. -/
theorem stepRunsThePresentedCommand : Obligations.StepRunsThePresentedCommand := by
  intro w s pins rest hmove hhost hrst hbroken hrsp hvalid
  rw [step_move hmove, moment_accept hhost hrst (by rwa [core_withHost]) (by rwa [core_withHost]) hvalid,
    core_withHost, acceptCore, decode_presentedOn]

/-! ### Reset (R160) -/

/-- Settles O15: the step leads to `resetCore`, whose fields are the reset values of R32 but for the host's own command. -/
theorem resetReplacesEveryElement : Obligations.ResetReplacesEveryElement := by
  intro w s pins rest hmove hkeeps hrst
  refine ⟨_, step_reset hmove hkeeps hrst, ?_⟩
  rw [core_setCore, resetCore_words]
  exact ⟨rfl, readWord_unwritten, rfl, rfl, rfl, rfl, rfl,
    fun v hv => (core_setCore_ne hv _ _).trans (core_withHost v s rest), setCore_host w _ _⟩

end Sys2Proof.Machine
end

section
/-! PROOFS of family other: the model's record of a misuse is set by the error response and never cleared
(93_implementation_defined U2, U3; log entry 6). -/

namespace Sys2Proof.Machine

/-! ### What a command does to the record -/

theorem exec_misuse_of_meetsDeadCore {w : Width} {i : Instr} {s t : State} (hdead : MeetsDeadCore w i s)
    (h : exec i s = .next t) : (t.core w).misuse = true := by
  obtain rfl := Host.Outcome.next.inj ((exec_of_meetsDeadCore hdead).symm.trans h)
  rw [core_setCore, raiseInvalidHandle_misuse]

/-- Every other command leaves the record of its core as it was, by the frame of the command. -/
theorem exec_misuse_of_not_meetsDeadCore {w : Width} {i : Instr} (hw : i.width = w) {s t : State}
    (hnot : ¬ MeetsDeadCore w i s) (h : exec i s = .next t) : (t.core w).misuse = (s.core w).misuse := by
  have hlive : i = Instr.generateOf w ∨ i = Instr.releaseOf w → (s.core w).live = true := fun hi =>
    (Bool.not_eq_false _).mp fun hdead => hnot ⟨hdead, hi⟩
  obtain ⟨-, hgenerate, hrelease, -, hseeding⟩ := frameOfTheCommands w s t
  rcases instr_cases_of_width hw with rfl | ⟨x, rfl⟩ | rfl | rfl
  · obtain ⟨hmisuse, -⟩ := hseeding 0 (.inl h)
    exact hmisuse
  · obtain ⟨hmisuse, -⟩ := hseeding x (.inr h)
    exact hmisuse
  · obtain ⟨-, hmisuse, -⟩ := hgenerate (hlive (.inl rfl)) h
    exact hmisuse
  · obtain ⟨-, hmisuse, -⟩ := hrelease (hlive (.inr rfl)) h
    exact hmisuse

/-! ### No step clears the record -/

/-- The record of the core of width `w`, if set in `s`, is set in `t` too. -/
def KeepsMisuse (w : Width) (s t : State) : Prop := (s.core w).misuse = true → (t.core w).misuse = true

/-- A new state of one core keeps the records of both cores if it has that core's record. -/
theorem setCore_keepsMisuse (w : Width) {v : Width} {s : State} {c : CoreState (params v)}
    (hc : c.misuse = (s.core v).misuse) : KeepsMisuse w s (s.setCore v c) := by
  intro hm
  by_cases hwv : w = v
  · subst hwv
    rwa [core_setCore, hc]
  · rwa [core_setCore_ne hwv]

theorem exec_keepsMisuse (w : Width) {i : Instr} {s t : State} (h : exec i s = .next t) : KeepsMisuse w s t := by
  intro hm
  by_cases hw : w = i.width
  · by_cases hdead : MeetsDeadCore w i s
    · exact exec_misuse_of_meetsDeadCore hdead h
    · rwa [exec_misuse_of_not_meetsDeadCore hw.symm hdead h]
  · rwa [exec_other_core h hw]

/-- A moment of reset keeps the record too: the model's choice of log entry 6. -/
theorem moment_keepsMisuse (w : Width) {v : Width} {pins : Pins v.bits} {s t : State} (h : moment v pins s = .next t) :
    KeepsMisuse w s t := by
  rcases moment_next h with ⟨rfl, -⟩ | ⟨rfl, -⟩ | ⟨rfl, -⟩ | ⟨hexec, -⟩
  · exact setCore_keepsMisuse w (resetCore_misuse _ _)
  · exact setCore_keepsMisuse w (deliverCore_misuse _ _)
  · exact setCore_keepsMisuse w (waitCore_misuse _ _)
  · exact fun hm => exec_keepsMisuse w hexec (setCore_keepsMisuse w (acceptCore_misuse _) hm)

theorem step_keepsMisuse (w : Width) {s t : State} (h : step s = .next t) : KeepsMisuse w s t := by
  rcases host_cases s with hidle | ⟨v, pins, rest, hmove⟩
  · rw [step_idle hidle] at h
    cases h
    exact id
  · rw [step_move hmove] at h
    intro hm
    exact moment_keepsMisuse w h (by rwa [core_withHost])

/-- Settles O39: the error response sets the record, and every step keeps it. -/
theorem misuseIsRecordedForGood : Obligations.MisuseIsRecordedForGood :=
  ⟨fun _ _ _ _ hi hdead => exec_misuse_of_meetsDeadCore ⟨hdead, hi⟩, fun w _ _ => step_keepsMisuse w⟩

end Sys2Proof.Machine
end
